-- ==== Sys2Proof/Word.lean ====
section
/-! DEFINITION. The word type of the SWD probe core (00_scope.md R9): every value is unsigned, bit 0 is the least
significant bit, a word is 32 bits. -/

namespace Sys2Proof

/-- A word: 32 bits, unsigned (R9). -/
abbrev Word := BitVec 32

/-- A line identifier, opaque to the core and handed to the GPIO collaborator (R26). -/
abbrev PinId := Nat

end Sys2Proof
end

