-- ==== Sys2Proof/Config.lean ====
section
/-! DEFINITION. The configuration record of 00_scope.md R8 and the free values. Nothing here is state (R39). -/

namespace Sys2Proof

/-- Every implementation parameter of R8, in one record, so that a claim can name or quantify over it. The widths
ACK (3) and header (8) are also those of the types; the bit counts the core sends and samples are the record's. -/
structure Params where
  /-- `WAIT_ATTEMPTS`: attempts in all per transaction (R178). -/
  waitAttempts : Nat
  /-- `POWERUP_POLLS`: CTRLSTAT reads in all (R225). -/
  powerupPolls : Nat
  /-- `IDLE_BITS` (R102, R166). -/
  idleBits : Nat
  /-- `IDLE_LEVEL` (R102). -/
  idleLevel : Bool
  /-- `ACK_BITS` (R99). -/
  ackBits : Nat
  /-- `ACK_OK`, as the value of `readBits(3)` (R99). -/
  ackOk : BitVec 3
  /-- `ACK_WAIT` (R99). -/
  ackWait : BitVec 3
  /-- `ACK_FAULT` (R99). -/
  ackFault : BitVec 3
  /-- `DATA_BITS` (R100, R101). -/
  dataBits : Nat
  /-- `HEADER_BITS` (R95). -/
  headerBits : Nat
  /-- `SELCACHE_INVALID` (R24). -/
  selcacheInvalid : Word
  /-- `NUM_PORTS` (R202). -/
  numPorts : Nat
  /-- `DEFAULT_PORT` (R226). -/
  defaultPort : BitVec 8
  /-- `DP_IDCODE`, `DP_CTRLSTAT`, `DP_SELECT` (R30). -/
  dpIdcode : Word
  dpCtrlstat : Word
  dpSelect : Word
  /-- `AP_CSW`, `AP_TAR`, `AP_DRW`, `AP_IDR` (R34). -/
  apCsw : Word
  apTar : Word
  apDrw : Word
  apIdr : Word
  /-- `IDCODE_MASK`, `IDCODE_MATCH` (R32). -/
  idcodeMask : Word
  idcodeMatch : Word
  /-- `AP_TYPE_MASK`, `AP_TYPE_AHB` (R36). -/
  apTypeMask : Word
  apTypeAhb : Word
  /-- `PWRUP_REQ`, `PWRUP_ACK_MASK` (R33). -/
  pwrupReq : Word
  pwrupAckMask : Word
  /-- `CSW_DEFAULT`, OPEN (R35). -/
  cswDefault : Word
  /-- `SWITCH_CODE`, `SWITCH_BITS` (R105). -/
  switchCode : Word
  switchBits : Nat
  /-- `LINE_RESET_ONES`, OPEN (R222). -/
  lineResetOnes : Nat
  /-- `TRAILING_ZERO_BITS`, OPEN (R222). -/
  trailingZeroBits : Nat
  /-- `WORD_BYTES` (R235). -/
  wordBytes : Word
  /-- `CLK_PIN`, `DIO_PIN`, OPEN: the identifiers of the two lines (R26). -/
  clkPin : PinId
  dioPin : PinId
  /-- The `VERBOSITY` levels error, normal and trace (R27). -/
  levelError : BitVec 2
  levelNormal : BitVec 2
  levelTrace : BitVec 2
  deriving DecidableEq, Repr

/-- The record with every value R8 fixes, over those it leaves OPEN. -/
@[reducible] def Params.withOpen (csw : Word) (ones zeros : Nat) (clk dio : PinId) : Params where
  waitAttempts := 10
  powerupPolls := 4
  idleBits := 8
  idleLevel := false
  ackBits := 3
  ackOk := 1
  ackWait := 2
  ackFault := 4
  dataBits := 32
  headerBits := 8
  selcacheInvalid := 0xFFFFFFFF
  numPorts := 4
  defaultPort := 0
  dpIdcode := 0x0
  dpCtrlstat := 0x4
  dpSelect := 0x8
  apCsw := 0x00
  apTar := 0x04
  apDrw := 0x0C
  apIdr := 0xFC
  idcodeMask := 0x0FF00001
  idcodeMatch := 0x0BA00001
  apTypeMask := 0xF
  apTypeAhb := 1
  pwrupReq := 0x50000000
  pwrupAckMask := 0xA0000000
  cswDefault := csw
  switchCode := 0xE79E
  switchBits := 16
  lineResetOnes := ones
  trailingZeroBits := zeros
  wordBytes := 4
  clkPin := clk
  dioPin := dio
  levelError := 0
  levelNormal := 1
  levelTrace := 2

/-- `CSW_DEFAULT` is OPEN (R35, U16): an uninterpreted constant. DESIGN CHOICE, safe (log 7). -/
opaque Config.cswDefault : Word

/-- How many ones a line reset has beyond the 50 that 92_eei_decisions.md D13 says a model should require.
DESIGN CHOICE, safe given that bound (log 7). -/
opaque Config.extraOnes : Nat

/-- How many trailing zeros there are beyond the 2 that D13 says a model should require.
DESIGN CHOICE, safe given that bound (log 7). -/
opaque Config.extraZeros : Nat

/-- `CLK_PIN` is OPEN (R8): an uninterpreted identifier. DESIGN CHOICE, safe (log 7). -/
opaque Config.clkPin : PinId

/-- `DIO_PIN` is OPEN (R8): an uninterpreted identifier. DESIGN CHOICE, safe (log 7). -/
opaque Config.dioPin : PinId

/-- The core's one configuration record (R8). -/
def Config.params : Params :=
  Params.withOpen Config.cswDefault (Config.extraOnes + 50) (Config.extraZeros + 2) Config.clkPin Config.dioPin

/-- The record 95_test_vectors.md section 1 uses for its traces, with two distinct pins: tests only. -/
def Config.vectors : Params := Params.withOpen 0x80000012 64 64 0 1

/-- The `k`-th free word: what the result port carries where R41 says it carries nothing a host may use, and what a
load buffer holds after a failed load (U9). Nothing constrains it. DESIGN CHOICE, safe (log 9, log 10). -/
opaque Config.freeWord : Nat → Word

end Sys2Proof
end

