-- ==== Sys2Proof/Syntax.lean ====
section
/-! DEFINITION. The operations of the SWD probe core, one constructor per row of opcode_table.json: the 17 commands of
30_encoding.md R92 with the operand ports of R90, the four request-header classes of R98, and the bring-up sequence of
R105. -/

namespace Sys2Proof

/-- One constructor per row of opcode_table.json. An operand keeps the width of its port (R90), so a value the spec
refuses can be written down and is refused. -/
inductive Instr where
  /-- `WRITE_BITS`: `writeBits(value, n)` (R134). -/
  | writeBits (value : Word) (n : BitVec 6)
  /-- `READ_BITS`: `readBits(n) -> value` (R135). -/
  | readBits (n : BitVec 6)
  /-- `WRITE_TURNAROUND` (R137). -/
  | writeTurnaround
  /-- `READ_TURNAROUND` (R136). -/
  | readTurnaround
  /-- `DP_WRITE`: `dpWrite(addr, APnDP, data)` (R168). -/
  | dpWrite (addr : Word) (apndp : Bool) (data : Word)
  /-- `DP_READ`: `dpRead(addr, APnDP) -> data_out` (R173). -/
  | dpRead (addr : Word) (apndp : Bool)
  /-- `AP_SELECT`: `selectAccessPort(port, addr)` (R201). -/
  | apSelect (port : BitVec 8) (addr : Word)
  /-- `AP_WRITE`: `apWrite(port, addr, data)` (R203). -/
  | apWrite (port : BitVec 8) (addr : Word) (data : Word)
  /-- `AP_READ`: `apRead(port, addr) -> data_out` (R204). -/
  | apRead (port : BitVec 8) (addr : Word)
  /-- `INITIALIZE`: `initialize(config) -> bool`, `config = (clk, dio, verbosity)` (R220). -/
  | linkInit (clk dio : PinId) (verbosity : BitVec 2)
  /-- `MEM_STORE`: `memoryStore(address, word)` (R230). -/
  | memStore (address word : Word)
  /-- `MEM_LOAD`: `memoryLoad(address) -> out_word` (R231). -/
  | memLoad (address : Word)
  /-- `MEM_STORE_N`: `memoryStore(address, buffer, count)` (R232); `buffer` is `count` words of the host (R90). -/
  | memStoreN (address count : Word) (buffer : List Word)
  /-- `MEM_LOAD_N`: `memoryLoad(address, buffer, count)` (R233); the buffer is written, so it is no operand here. -/
  | memLoadN (address count : Word)
  /-- `SET_VERBOSITY` (R236). -/
  | setVerbosity (level : BitVec 2)
  /-- `EVEN_PARITY`: `evenParity(w) -> bit` (R160). -/
  | evenParity (w : Word)
  /-- `PACK_HEADER`: `packHeader(addr, APnDP, RnW) -> byte` (R162). -/
  | packHeader (addr : Word) (apndp rnw : Bool)
  /-- `REQ_DP_WRITE`: the request "DP register write" (R98) for the register at address bits `a3`, `a2`, with the
  write's payload. DESIGN CHOICE (log 2). -/
  | reqDpWrite (a3 a2 : Bool) (data : Word)
  /-- `REQ_DP_READ`: the request "DP register read" (R98). DESIGN CHOICE (log 2). -/
  | reqDpRead (a3 a2 : Bool)
  /-- `REQ_AP_WRITE`: the request "AP register write" (R98). DESIGN CHOICE (log 2). -/
  | reqApWrite (a3 a2 : Bool) (data : Word)
  /-- `REQ_AP_READ`: the request "AP register read" (R98). DESIGN CHOICE (log 2). -/
  | reqApRead (a3 a2 : Bool)
  /-- `BRINGUP_SEQ`: the bring-up sequence of R105, sent as R222 says. DESIGN CHOICE (log 3). -/
  | bringupSeq
  deriving DecidableEq, Repr

end Sys2Proof
end

