-- ==== Sys2Proof/WellFormed.lean ====
section
/-! DEFINITION. The legal operand values of 30_encoding.md R90: `n` 0 to 32 (R133), `port` 0 to NUM_PORTS - 1 (R202),
`level` 0 to 2 (R236, U12), `buffer` of `count` words (R90). Every other operand value is legal (R72). -/

namespace Sys2Proof

/-- `level` encodes one of the three levels (R8, R27, U12). -/
def levelLegal (c : Params) (level : BitVec 2) : Bool :=
  decide (level = c.levelError ∨ level = c.levelNormal ∨ level = c.levelTrace)

/-- Every operand has a legal value (R90, R93). -/
def Instr.wellFormed : Instr → Bool
  | .writeBits _ n => decide (n.toNat ≤ 32)
  | .readBits n => decide (n.toNat ≤ 32)
  | .writeTurnaround => true
  | .readTurnaround => true
  | .dpWrite _ _ _ => true
  | .dpRead _ _ => true
  | .apSelect port _ => decide (port.toNat < Config.params.numPorts)
  | .apWrite port _ _ => decide (port.toNat < Config.params.numPorts)
  | .apRead port _ => decide (port.toNat < Config.params.numPorts)
  | .linkInit _ _ verbosity => levelLegal Config.params verbosity
  | .memStore _ _ => true
  | .memLoad _ => true
  | .memStoreN _ count buffer => decide (buffer.length = count.toNat)
  | .memLoadN _ _ => true
  | .setVerbosity level => levelLegal Config.params level
  | .evenParity _ => true
  | .packHeader _ _ _ => true
  | .reqDpWrite _ _ _ => true
  | .reqDpRead _ _ => true
  | .reqApWrite _ _ _ => true
  | .reqApRead _ _ => true
  | .bringupSeq => true

end Sys2Proof
end

