-- ==== Sys2Proof/Decode.lean ====
section
/-! DEFINITION. Encodings: the command record and its codes (30_encoding.md R90 to R94), the request header
(R95 to R98, 41_dp_transaction.md R162), the bring-up sequence (R105); the decoder, total on every presentation, and
the encoder. -/

namespace Sys2Proof

/-- The command record on the command port (R90): the operation code and the operand ports, each a port of its own.
An operation does not look at the ports it does not take (R40, R90). -/
structure CmdRecord where
  op : BitVec 5
  /-- `value` / `data` / `word` -/
  value : Word := 0
  n : BitVec 6 := 0
  addr : Word := 0
  apndp : Bool := false
  rnw : Bool := false
  port : BitVec 8 := 0
  address : Word := 0
  count : Word := 0
  buffer : List Word := []
  /-- `config.clk`, `config.dio`, `config.verbosity` -/
  clk : PinId := 0
  dio : PinId := 0
  verbosity : BitVec 2 := 0
  level : BitVec 2 := 0
  deriving DecidableEq, Repr

/-- What can be presented to the core: a command record (format CMD), a request header with the payload of a write
(format HDR), or the bits of a sequence in wire order (format SEQ). The last two formats are wire packets in the spec;
that they can be presented is a DESIGN CHOICE, unsafe (log 2, log 3). -/
inductive Presented where
  | cmd (r : CmdRecord)
  | request (header : BitVec 8) (data : Word)
  | sequence (bits : List Bool)
  deriving DecidableEq, Repr

/-- Why a presentation names no operation. -/
inductive Reject where
  /-- `cmd_op` 0x00 or 0x12 to 0x1F (R93, U10). -/
  | reservedCommand (op : BitVec 5)
  /-- A byte that matches none of the four header classes of R98. -/
  | notARequestHeader (header : BitVec 8)
  /-- Bits other than the bring-up sequence of R105. -/
  | notTheBringupSequence
  deriving DecidableEq, Repr

/-- The low `n` bits of `v` in wire order: bit 0 first (R10, R63). -/
def lsbBits {w : Nat} (v : BitVec w) (n : Nat) : List Bool :=
  (List.range n).map v.getLsbD

/-- The unsigned word assembled from bits in wire order: the first is bit 0 (R10, R135). -/
def wordOfBits : List Bool → Word
  | [] => 0
  | b :: bs => (wordOfBits bs <<< 1) ||| (BitVec.ofBool b).setWidth 32

/-- The header's parity bit: `APnDP ^ RnW ^ addr[2] ^ addr[3]` (R95, R96). -/
def headerParity (addr : Word) (apndp rnw : Bool) : Bool :=
  ((apndp ^^ rnw) ^^ addr.getLsbD 2) ^^ addr.getLsbD 3

/-- `packHeader(addr, APnDP, RnW)`, bit 7 (park) down to bit 0 (start) (R95, R162). -/
def packHeader (addr : Word) (apndp rnw : Bool) : BitVec 8 :=
  1#1 ++ 0#1 ++ BitVec.ofBool (headerParity addr apndp rnw) ++ BitVec.ofBool (addr.getLsbD 3)
    ++ BitVec.ofBool (addr.getLsbD 2) ++ BitVec.ofBool rnw ++ BitVec.ofBool apndp ++ 1#1

/-- The register address with bits 3 and 2 as given and every other bit 0 (R30, R66). -/
def registerAddress (a3 a2 : Bool) : Word :=
  ((BitVec.ofBool a3).setWidth 32 <<< 3) ||| ((BitVec.ofBool a2).setWidth 32 <<< 2)

/-- The bring-up sequence in wire order (R105). -/
def bringupBits (c : Params) : List Bool :=
  List.replicate c.lineResetOnes true ++ lsbBits c.switchCode c.switchBits
    ++ List.replicate c.lineResetOnes true ++ List.replicate c.trailingZeroBits false

/-- The command a record presents (R92, R93). -/
def decodeCommand (r : CmdRecord) : Except Reject Instr :=
  match r.op.toNat with
  | 0x01 => .ok (.writeBits r.value r.n)
  | 0x02 => .ok (.readBits r.n)
  | 0x03 => .ok .writeTurnaround
  | 0x04 => .ok .readTurnaround
  | 0x05 => .ok (.dpWrite r.addr r.apndp r.value)
  | 0x06 => .ok (.dpRead r.addr r.apndp)
  | 0x07 => .ok (.apSelect r.port r.addr)
  | 0x08 => .ok (.apWrite r.port r.addr r.value)
  | 0x09 => .ok (.apRead r.port r.addr)
  | 0x0A => .ok (.linkInit r.clk r.dio r.verbosity)
  | 0x0B => .ok (.memStore r.address r.value)
  | 0x0C => .ok (.memLoad r.address)
  | 0x0D => .ok (.memStoreN r.address r.count r.buffer)
  | 0x0E => .ok (.memLoadN r.address r.count)
  | 0x0F => .ok (.setVerbosity r.level)
  | 0x10 => .ok (.evenParity r.value)
  | 0x11 => .ok (.packHeader r.addr r.apndp r.rnw)
  | _ => .error (.reservedCommand r.op)

/-- The request a header byte stands for, by the class match of R98 (mask 0xC7). Bit 5 is not looked at: the parity is
"computed, never checked, by the core" (R96). DESIGN CHOICE, unsafe (log 2). -/
def decodeRequest (h : BitVec 8) (data : Word) : Except Reject Instr :=
  match (h &&& 0xC7#8).toNat with
  | 0x81 => .ok (.reqDpWrite (h.getLsbD 4) (h.getLsbD 3) data)
  | 0x85 => .ok (.reqDpRead (h.getLsbD 4) (h.getLsbD 3))
  | 0x83 => .ok (.reqApWrite (h.getLsbD 4) (h.getLsbD 3) data)
  | 0x87 => .ok (.reqApRead (h.getLsbD 4) (h.getLsbD 3))
  | _ => .error (.notARequestHeader h)

/-- The decoder: what a presentation names, or why it names nothing. -/
def decode : Presented → Except Reject Instr
  | .cmd r => decodeCommand r
  | .request h data => decodeRequest h data
  | .sequence bits =>
    if bits = bringupBits Config.params then .ok .bringupSeq else .error .notTheBringupSequence

/-- The encoder: the presentation of an operation, ports it does not take at 0 (R92, R95, R105; log 22). -/
def encode : Instr → Presented
  | .writeBits value n => .cmd { op := 0x01, value := value, n := n }
  | .readBits n => .cmd { op := 0x02, n := n }
  | .writeTurnaround => .cmd { op := 0x03 }
  | .readTurnaround => .cmd { op := 0x04 }
  | .dpWrite addr apndp data => .cmd { op := 0x05, addr := addr, apndp := apndp, value := data }
  | .dpRead addr apndp => .cmd { op := 0x06, addr := addr, apndp := apndp }
  | .apSelect port addr => .cmd { op := 0x07, port := port, addr := addr }
  | .apWrite port addr data => .cmd { op := 0x08, port := port, addr := addr, value := data }
  | .apRead port addr => .cmd { op := 0x09, port := port, addr := addr }
  | .linkInit clk dio verbosity => .cmd { op := 0x0A, clk := clk, dio := dio, verbosity := verbosity }
  | .memStore address word => .cmd { op := 0x0B, address := address, value := word }
  | .memLoad address => .cmd { op := 0x0C, address := address }
  | .memStoreN address count buffer => .cmd { op := 0x0D, address := address, count := count, buffer := buffer }
  | .memLoadN address count => .cmd { op := 0x0E, address := address, count := count }
  | .setVerbosity level => .cmd { op := 0x0F, level := level }
  | .evenParity w => .cmd { op := 0x10, value := w }
  | .packHeader addr apndp rnw => .cmd { op := 0x11, addr := addr, apndp := apndp, rnw := rnw }
  | .reqDpWrite a3 a2 data => .request (packHeader (registerAddress a3 a2) false false) data
  | .reqDpRead a3 a2 => .request (packHeader (registerAddress a3 a2) false true) 0
  | .reqApWrite a3 a2 data => .request (packHeader (registerAddress a3 a2) true false) data
  | .reqApRead a3 a2 => .request (packHeader (registerAddress a3 a2) true true) 0
  | .bringupSeq => .sequence (bringupBits Config.params)

/-- The presentation of a table word `w` of `nbits` bits, every operand port 0: up to one byte, a byte with bits 7:5
clear is a command code and any other a header; longer words are sequence bits, bit 0 first. -/
def presentationOf (nbits w : Nat) : Presented :=
  if nbits ≤ 8 then
    if w % 256 < 32 then .cmd { op := BitVec.ofNat 5 w } else .request (BitVec.ofNat 8 w) 0
  else .sequence ((List.range nbits).map w.testBit)

/-- What the decoder reads from an opcode-table word (the host's question). -/
def decodeTableWord (nbits w : Nat) : Option Instr :=
  (decode (presentationOf nbits w)).toOption

end Sys2Proof
end

