-- ==== Sys2Proof/Machine/State.lean ====
section
/-! DEFINITION. The state of the SWD probe core (10_state.md), as plain data: what the core holds, what the GPIO
collaborator holds for it, its result port, and the environment's side of its ports (commands and answers to come,
actions made and diagnostics emitted so far). -/

namespace Sys2Proof.Machine

/-- The two lines (R26, R28). -/
inductive Line where
  | clk
  | dio
  deriving DecidableEq, Repr

/-- Drive modes of a line: output push-pull, input with pull-up (R28). -/
inductive DriveMode where
  | outPP
  | inPU
  deriving DecidableEq, Repr

/-- Diagnostic levels (R27). -/
inductive Level where
  | error
  | normal
  | trace
  deriving DecidableEq, Repr

/-- One action on the GPIO port (R11, R43): the line's role, the identifier handed over, and the mode or level set, or
the level read. -/
inductive GpioEvent where
  | setMode (line : Line) (pin : PinId) (mode : DriveMode)
  | setLevel (line : Line) (pin : PinId) (level : Bool)
  | readLevel (line : Line) (pin : PinId) (level : Bool)
  deriving DecidableEq, Repr

/-- The eight error kinds (R260). -/
inductive ErrorKind where
  | noDeviceDetected
  | unrecognizedPart
  | powerUpTimeout
  | unexpectedAccessPortType
  | protocolFault
  | protocolError
  | waitTimeout
  | parityError
  deriving DecidableEq, Repr

/-- Direction of a transaction, with a write's payload (R179). -/
inductive Transfer where
  | read
  | write (data : Word)
  deriving DecidableEq, Repr

/-- What a transaction asks for: register address, APnDP, direction and payload (R14, R179). -/
structure Request where
  addr : Word
  apndp : Bool
  transfer : Transfer
  deriving DecidableEq, Repr

/-- A failure with the information its diagnostic carries (R260). -/
inductive Failure where
  | noDeviceDetected (cause : ErrorKind)
  | unrecognizedPart (idcode : Word)
  | powerUpTimeout (ctrlstat : Word)
  | unexpectedAccessPortType (idr : Word)
  | protocolFault (request : Request)
  | protocolError (request : Request) (ack : BitVec 3)
  | waitTimeout (request : Request)
  | parityError (addr : Word) (apndp : Bool)
  deriving DecidableEq, Repr

/-- What a diagnostic reports: a failure (error level), the milestone of `initialize` step 4 (normal level), and the
trace events of the pseudocode (R46; their number and content are advisory, R139, log 11). -/
inductive DiagEvent where
  | failure (f : Failure)
  | foundArmProcessor (idcode : Word)
  | wireWrite (value : Word) (n : Nat)
  | wireRead (value : Word) (n : Nat)
  | readTurnaround
  | writeTurnaround
  | transaction (request : Request)
  | memStoreWord (localAddr word : Word)
  | memLoadWord (localAddr word : Word)
  deriving DecidableEq, Repr

/-- One event handed to the sink (R46). -/
structure Diag where
  level : Level
  event : DiagEvent
  deriving DecidableEq, Repr

/-- A diagnostic with its place among the GPIO actions: how many had been made since power-on when it was handed over. It
keeps the order the rules give between the two ports: a failure is reported only after its drain (R166, R174, R262; the
encoding is log 21). -/
structure Emitted where
  diag : Diag
  actions : Nat
  deriving DecidableEq, Repr

/-- The result port (R41). `rdata` is valid only when `ok` and the command returns a word; otherwise it is a free value
(log 9). -/
structure ResultPort where
  ok : Bool
  err : BitVec 4
  rdata : Word
  deriving DecidableEq, Repr

/-- The state. INVENTORY.md lists every field with the rule that names it and its reset value. -/
structure State where
  /-- `CLK_PIN` (R26). -/
  clkPin : PinId
  /-- `DIO_PIN` (R26). -/
  dioPin : PinId
  /-- `VERBOSITY` (R27). -/
  verbosity : Level
  /-- `SELCACHE` (R24). -/
  selcache : Word
  /-- `LINK_READY` (R29). -/
  linkReady : Bool
  /-- One `INITIALIZE` has run its step 1, so the pins are defined (R302). -/
  pinsReady : Bool
  /-- `CLK_LEVEL` (R28). -/
  clkLevel : Bool
  /-- `DIO_MODE` (R28). -/
  dioMode : DriveMode
  /-- `DIO_LATCH` (R28). -/
  dioLatch : Bool
  /-- The result port (R41). -/
  result : ResultPort
  /-- The host buffer the latest `MEM_LOAD_N` filled (R40, R233). -/
  loadBuffer : List Word
  /-- The MODEL's own: how many free values have been drawn (log 9). -/
  freeCount : Nat
  /-- The MODEL's own, the host's side: the presentations still to come (R40, log 1). -/
  hostScript : List Presented
  /-- The MODEL's own, the target's side: what the target drives at each sample still to come, `none` for nothing
  (R44, R45; empty at reset, the model's choice: log 4). -/
  targetScript : List (Option Bool)
  /-- The MODEL's own: the GPIO actions made so far, oldest first (R43, R73, log 21). -/
  gpio : List GpioEvent
  /-- The MODEL's own: the diagnostics handed to the sink so far, oldest first, each with the number of entries `gpio` had
  then (R46, R166, R174, log 21). -/
  diag : List Emitted
  deriving DecidableEq, Repr

/-- The core stops with a fault: never. "No behaviour of the core is stuck or fault by reason of being undefined: the
only faults are the eight kinds" of R260 (93_implementation_defined.md part 1), and those end a command, not the
machine: they are next states with `ok = 0`. -/
inductive Fault where
  deriving DecidableEq, Repr

/-- What the model refuses, each where the spec says a model refuses it. -/
inductive Refusal where
  /-- An instruction without a meaning yet; raised by Dispatch only. Safe: the machine stops. -/
  | notModelled (mnemonic : String)
  /-- The presentation names no operation (R93, U10): raised by the step. Safe: the machine stops. -/
  | unknownOperation (reject : Reject)
  /-- `n > 32` (R133, U6): raised by WRITE_BITS and READ_BITS. Safe: the machine stops. -/
  | bitCountAbove32 (n : BitVec 6)
  /-- `port > 3` (R202, U5): raised by AP_SELECT, AP_WRITE and AP_READ. Safe: the machine stops. -/
  | noSuchPort (port : BitVec 8)
  /-- `level` 3 in SET_VERBOSITY or in `config` (R236, U12): raised by SET_VERBOSITY and INITIALIZE. Safe: the machine
  stops. -/
  | noSuchLevel (level : BitVec 2)
  /-- A buffer that is not `count` words (R90; log 18): raised by MEM_STORE_N. Safe: the machine stops. -/
  | bufferNotCountWords
  /-- A command other than INITIALIZE, SET_VERBOSITY, EVEN_PARITY and PACK_HEADER before one INITIALIZE has run its
  step 1 (R302, U14): raised by every other operation. Safe: the machine stops. -/
  | beforeInitialize
  deriving DecidableEq, Repr

/-- The core after power-on, before any command (R47). `clkLevel`, `dioMode`, `dioLatch`, `result` and `loadBuffer` are
unspecified there: DESIGN CHOICE, unsafe (log 6). `clkPin` and `dioPin` are unspecified too: the record's uninterpreted
identifiers, DESIGN CHOICE, safe (log 6). `targetScript` is empty, so a run from here meets a target that drives nothing:
R45 leaves the answers open, DESIGN CHOICE, unsafe (log 4). `hostScript` is empty, nothing presented yet: DESIGN CHOICE
(log 1); `gpio` and `diag` are empty, nothing done yet (log 21); `freeCount` is 0: DESIGN CHOICE (log 9). -/
def State.reset : State where
  clkPin := Config.params.clkPin
  dioPin := Config.params.dioPin
  verbosity := .error
  selcache := Config.params.selcacheInvalid
  linkReady := false
  pinsReady := false
  clkLevel := false
  dioMode := .inPU
  dioLatch := false
  result := { ok := false, err := 0, rdata := 0 }
  loadBuffer := []
  freeCount := 0
  hostScript := []
  targetScript := []
  gpio := []
  diag := []

end Sys2Proof.Machine
end

