-- ==== Sys2Proof/Machine/Flags.lean ====
section
/-! DEFINITION. Every computed status of the core: parity, the acknowledge's class, the three value checks of
`initialize`, the gate of the diagnostics, and the error codes of the result port. -/

namespace Sys2Proof.Machine

/-- `evenParity(w)`: the five XOR folds of R160. 1 exactly when `w` has an odd number of ones (R161). -/
def evenParity (w : Word) : Bool :=
  let p := w ^^^ (w >>> 16)
  let p := p ^^^ (p >>> 8)
  let p := p ^^^ (p >>> 4)
  let p := p ^^^ (p >>> 2)
  let p := p ^^^ (p >>> 1)
  p.getLsbD 0

/-- The four outcomes of an acknowledge (R165). -/
inductive AckClass where
  | ok
  | wait
  | fault
  | invalid
  deriving DecidableEq, Repr

/-- Classification of the 3-bit acknowledge (R165). -/
def classify (c : Params) (ack : BitVec 3) : AckClass :=
  if ack = c.ackOk then .ok
  else if ack = c.ackWait then .wait
  else if ack = c.ackFault then .fault
  else .invalid

/-- The IDCODE test: the mask first, the comparison second (R32, R224, C6). -/
def idcodeRecognized (c : Params) (idcode : Word) : Bool :=
  decide (idcode &&& c.idcodeMask = c.idcodeMatch)

/-- Both power-up acknowledge bits are set in the same word (R33, R225). -/
def powerUpAcknowledged (c : Params) (ctrlstat : Word) : Bool :=
  decide (ctrlstat &&& c.pwrupAckMask = c.pwrupAckMask)

/-- The IDR names a memory access port (R36, R226). -/
def isMemoryPort (c : Params) (idr : Word) : Bool :=
  decide (idr &&& c.apTypeMask = c.apTypeAhb)

/-- The encoding of a level, as the record gives it (R8, R27). -/
def Level.code (c : Params) : Level → BitVec 2
  | .error => c.levelError
  | .normal => c.levelNormal
  | .trace => c.levelTrace

/-- A diagnostic of level `l` passes at threshold `v` if and only if `l <= v` (R27). -/
def Level.passes (l v : Level) : Bool :=
  decide (l.code Config.params ≤ v.code Config.params)

/-- The code of an error kind on the result port (R260). -/
def ErrorKind.code : ErrorKind → BitVec 4
  | .noDeviceDetected => 1
  | .unrecognizedPart => 2
  | .powerUpTimeout => 3
  | .unexpectedAccessPortType => 4
  | .protocolFault => 5
  | .protocolError => 6
  | .waitTimeout => 7
  | .parityError => 8

/-- The kind of a failure (R260). -/
def Failure.kind : Failure → ErrorKind
  | .noDeviceDetected _ => .noDeviceDetected
  | .unrecognizedPart _ => .unrecognizedPart
  | .powerUpTimeout _ => .powerUpTimeout
  | .unexpectedAccessPortType _ => .unexpectedAccessPortType
  | .protocolFault _ => .protocolFault
  | .protocolError _ _ => .protocolError
  | .waitTimeout _ => .waitTimeout
  | .parityError _ _ => .parityError

end Sys2Proof.Machine
end

