-- ==== Sys2Proof/Machine/Operands.lean ====
section
/-! DEFINITION. How operands are used: the SELECT value, register addresses, levels, and the legal ranges of R90. -/

namespace Sys2Proof.Machine

/-- `select = (port << 24) | (addr & 0xF0)` on 32 bits (R106, R200). -/
def selectValue (port : BitVec 8) (addr : Word) : Word :=
  (port.setWidth 32 <<< 24) ||| (addr &&& 0x000000F0)

/-- The in-bank address of an access-port register, `addr & 0xF` (R203). -/
def bankAddress (addr : Word) : Word :=
  addr &&& 0xF

/-- `n` is a legal bit count (R133). -/
def bitCountLegal (n : BitVec 6) : Bool :=
  decide (n.toNat ≤ 32)

/-- `port` names one of the access ports (R202). -/
def portLegal (c : Params) (port : BitVec 8) : Bool :=
  decide (port.toNat < c.numPorts)

/-- The level an operand encodes, as the record gives it; 3 encodes none (R8, R27, R236). -/
def levelOf (c : Params) (level : BitVec 2) : Option Level :=
  if level = c.levelError then some .error
  else if level = c.levelNormal then some .normal
  else if level = c.levelTrace then some .trace
  else none

/-- `buffer` is `count` words (R90). -/
def bufferLegal (count : Word) (buffer : List Word) : Bool :=
  decide (buffer.length = count.toNat)

/-- `k` bits of one level in pieces of at most 32, as `sendRun` cuts them (R222). -/
def runPieces (k : Nat) : List Nat :=
  List.replicate (k / 32) 32 ++ (if k % 32 = 0 then [] else [k % 32])

end Sys2Proof.Machine
end

