-- ==== Sys2Proof/Machine/Ops.lean ====
section
/-! DEFINITION. The shared operations: the GPIO port and the four wire primitives (40_wire_layer.md), diagnostics
(R46), taking a failure (R262) and presenting a result (R41), and the guards that refuse a command (R93, R302). -/

namespace Sys2Proof.Machine

/-- What an operation of layers 2 to 4 answers: a value or the kind it failed with (R262), and the state it leaves. -/
abbrev Run (α : Type) := Except ErrorKind α × State

/-- Run `f` after `r`; a failure of `r` "ends the operation and every operation that called it" (R11, R262). -/
def andThen {α β : Type} (r : Run α) (f : α → State → Run β) : Run β :=
  match r with
  | (.ok a, s) => f a s
  | (.error e, s) => (.error e, s)

/-- `Log(level, event)`: hand one diagnostic to the sink if its level passes the threshold (R27, R46), after the GPIO
actions made so far. -/
def log (level : Level) (event : DiagEvent) (s : State) : State :=
  { s with diag := if level.passes s.verbosity then s.diag ++ [⟨⟨level, event⟩, s.gpio.length⟩] else s.diag }

/-- Taking a failure (R262, R263): one error-level diagnostic, then the operation ends with the failure's kind. Every
caller has completed the attempt's wire activity before it raises. -/
def raise {α : Type} (f : Failure) (s : State) : Run α :=
  (.error f.kind, log .error (.failure f) s)

/-- The two GPIO actions of one clock pulse: low, then high (R131). -/
def pulseActions (s : State) : List GpioEvent :=
  [.setLevel .clk s.clkPin false, .setLevel .clk s.clkPin true]

/-- `Pulse()` (R131). -/
def pulse (s : State) : State :=
  { s with clkLevel := true, gpio := s.gpio ++ pulseActions s }

/-- The GPIO actions that put one bit on the line and pulse (R134). -/
def writeBitActions (s : State) (b : Bool) : List GpioEvent :=
  .setLevel .dio s.dioPin b :: pulseActions s

/-- The GPIO actions that sample one bit and pulse (R135). -/
def readBitActions (s : State) (b : Bool) : List GpioEvent :=
  .readLevel .dio s.dioPin b :: pulseActions s

/-- Put the bits on the data line one after the other, each followed by a pulse (R134): the latch keeps the last bit,
the clock rests high, and the mode does not change (R132). -/
def driveBits (bits : List Bool) (s : State) : State :=
  { s with
    dioLatch := bits.getLastD s.dioLatch
    clkLevel := s.clkLevel || !bits.isEmpty
    gpio := s.gpio ++ bits.flatMap (writeBitActions s) }

/-- The levels of the next `n` samples of a released line: what the target drives, or 1 by the pull-up where it drives
nothing or has nothing more to say (R44, R45; log 4). -/
def targetLevels : Nat → List (Option Bool) → List Bool
  | 0, _ => []
  | n + 1, [] => true :: targetLevels n []
  | n + 1, d :: ds => d.getD true :: targetLevels n ds

/-- The levels `n` samples read: the target's while the line is released (R45), `DIO_LATCH` while the core drives it
(R44, U4; log 5). -/
def sampledLevels (n : Nat) (s : State) : List Bool :=
  match s.dioMode with
  | .inPU => targetLevels n s.targetScript
  | .outPP => List.replicate n s.dioLatch

/-- `n` samples, each followed by a pulse (R135). Only samples of a released line use up answers (R45). -/
def sampleBits (n : Nat) (s : State) : State :=
  { s with
    clkLevel := s.clkLevel || decide (0 < n)
    targetScript := if s.dioMode = .inPU then s.targetScript.drop n else s.targetScript
    gpio := s.gpio ++ (sampledLevels n s).flatMap (readBitActions s) }

/-- `writeBits(value, n)` (R134). -/
def writeBits (value : Word) (n : Nat) (s : State) : State :=
  log .trace (.wireWrite value n) (driveBits (lsbBits value n) s)

/-- The value `readBits(n)` returns (R135). -/
def readValue (n : Nat) (s : State) : Word :=
  wordOfBits (sampledLevels n s)

/-- `readBits(n)`, the state it leaves (R135). -/
def readBits (n : Nat) (s : State) : State :=
  log .trace (.wireRead (readValue n s) n) (sampleBits n s)

/-- `readTurnaround()`: release the line, then one pulse (R136). -/
def readTurnaround (s : State) : State :=
  log .trace .readTurnaround
    { s with
      dioMode := .inPU
      clkLevel := true
      gpio := s.gpio ++ .setMode .dio s.dioPin .inPU :: pulseActions s }

/-- `writeTurnaround()`: one pulse, then take the line (R137). -/
def writeTurnaround (s : State) : State :=
  log .trace .writeTurnaround
    { s with
      dioMode := .outPP
      clkLevel := true
      gpio := s.gpio ++ (pulseActions s ++ [.setMode .dio s.dioPin .outPP]) }

/-- `SELCACHE <- v` (R24). -/
def setSelcache (v : Word) (s : State) : State :=
  { s with selcache := v }

/-- `VERBOSITY <- l` (R27). -/
def putVerbosity (l : Level) (s : State) : State :=
  { s with verbosity := l }

/-- `LINK_READY <- 1` (R228). -/
def markReady (s : State) : State :=
  { s with linkReady := true }

/-- Present success with a word (R41). -/
def presentWord (w : Word) (s : State) : State :=
  { s with result := { ok := true, err := 0, rdata := w } }

/-- Present success of a command that returns no word: `rdata` is not valid, a free value (R41; log 9). -/
def presentDone (s : State) : State :=
  { s with
    result := { ok := true, err := 0, rdata := Config.freeWord s.freeCount }
    freeCount := s.freeCount + 1 }

/-- Present failure: `ok = 0`, `err` the kind's code, `rdata` not valid, a free value (R41, R262; log 9). -/
def presentFail (e : ErrorKind) (s : State) : State :=
  { s with
    result := { ok := false, err := e.code, rdata := Config.freeWord s.freeCount }
    freeCount := s.freeCount + 1 }

/-- The host's buffer after a successful vectorized load (R233). -/
def fillBuffer (words : List Word) (s : State) : State :=
  { s with loadBuffer := words }

/-- The host's buffer after a failed vectorized load: any value for every one of its `n` words (R234, U9; log 10). -/
def spoilBuffer (n : Nat) (s : State) : State :=
  { s with
    loadBuffer := (List.range n).map fun i => Config.freeWord (s.freeCount + i)
    freeCount := s.freeCount + n }

/-- End a command that returns no word (R41). -/
def finishDone (r : Run Unit) : Host.Outcome State Fault Refusal :=
  match r with
  | (.ok _, s) => .next (presentDone s)
  | (.error e, s) => .next (presentFail e s)

/-- End a command that returns a word (R41). -/
def finishWord (r : Run Word) : Host.Outcome State Fault Refusal :=
  match r with
  | (.ok w, s) => .next (presentWord w s)
  | (.error e, s) => .next (presentFail e s)

/-- End a vectorized load into a buffer of `n` words (R41, R233, R234). -/
def finishBuffer (n : Nat) (r : Run (List Word)) : Host.Outcome State Fault Refusal :=
  match r with
  | (.ok ws, s) => .next (presentDone (fillBuffer ws s))
  | (.error e, s) => .next (presentFail e (spoilBuffer n s))

/-- Refuse an illegal operand value, before any pin event (R93, R266). -/
def requireLegal (legal : Bool) (r : Refusal) (k : Host.Outcome State Fault Refusal) :
    Host.Outcome State Fault Refusal :=
  if legal then k else .refused r

/-- Refuse a command that needs the pins until one INITIALIZE has run its step 1 (R302). -/
def requirePins (s : State) (k : Host.Outcome State Fault Refusal) : Host.Outcome State Fault Refusal :=
  if s.pinsReady then k else .refused .beforeInitialize

end Sys2Proof.Machine
end

