-- ==== Sys2Proof/Machine/Dp.lean ====
section
/-! DEFINITION. Layer 2 (41_dp_transaction.md): the DP transactions and the commands DP_WRITE, DP_READ, and the two pure
functions EVEN_PARITY and PACK_HEADER. -/

namespace Sys2Proof.Machine

/-- The drain: `writeBits(0, 8)`, the idle bits that end every attempt (R102, R166). -/
def drain (c : Params) (s : State) : State :=
  writeBits (if c.idleLevel then 0xFFFFFFFF else 0) c.idleBits s

/-- Transmit the header and hand the line over (R164): the state in which the acknowledge is sampled. -/
def sendHeader (c : Params) (addr : Word) (apndp rnw : Bool) (s : State) : State :=
  readTurnaround (writeBits ((packHeader addr apndp rnw).setWidth 32) c.headerBits s)

/-- The acknowledge `readBits(3)` reads (R99, R164). -/
def ackValue (c : Params) (s : State) : BitVec 3 :=
  (readValue c.ackBits s).setWidth 3

/-- The write's data phase: data, parity, idle bits (R100, R169). -/
def sendData (c : Params) (data : Word) (s : State) : State :=
  drain c (writeBits ((BitVec.ofBool (evenParity data)).setWidth 32) 1 (writeBits data c.dataBits s))

/-- The attempts of a `dpWrite`, `budget` of them left; a budget used up is WaitTimeout (R168, R178). -/
def dpWriteLoop (c : Params) (addr : Word) (apndp : Bool) (data : Word) : Nat → State → Run Unit
  | 0, s => raise (.waitTimeout ⟨addr, apndp, .write data⟩) s
  | budget + 1, s =>
    let s1 := sendHeader c addr apndp false s
    let ack := ackValue c s1
    let s2 := writeTurnaround (readBits c.ackBits s1)
    match classify c ack with
    | .ok => (.ok (), sendData c data s2)
    | .wait => dpWriteLoop c addr apndp data budget (drain c s2)
    | .fault => raise (.protocolFault ⟨addr, apndp, .write data⟩) (drain c s2)
    | .invalid => raise (.protocolError ⟨addr, apndp, .write data⟩ ack) (drain c s2)

/-- `dpWrite(addr, APnDP, data)`: a fresh budget at every call (R168, R178). The transaction's trace event is advisory
(R274; log 11). -/
def dpWrite (c : Params) (addr : Word) (apndp : Bool) (data : Word) (s : State) : Run Unit :=
  dpWriteLoop c addr apndp data c.waitAttempts (log .trace (.transaction ⟨addr, apndp, .write data⟩) s)

/-- The attempts of a `dpRead`, `budget` of them left (R173, R178). On OK the data and the parity bit are sampled
before the line is taken back, and compared after the drain (R174). -/
def dpReadLoop (c : Params) (addr : Word) (apndp : Bool) : Nat → State → Run Word
  | 0, s => raise (.waitTimeout ⟨addr, apndp, .read⟩) s
  | budget + 1, s =>
    let s1 := sendHeader c addr apndp true s
    let ack := ackValue c s1
    let s2 := readBits c.ackBits s1
    match classify c ack with
    | .ok =>
      let word := readValue c.dataBits s2
      let s3 := readBits c.dataBits s2
      let parity := readValue 1 s3
      let s4 := drain c (writeTurnaround (readBits 1 s3))
      if parity.getLsbD 0 = evenParity word then (.ok word, s4) else raise (.parityError addr apndp) s4
    | .wait => dpReadLoop c addr apndp budget (drain c (writeTurnaround s2))
    | .fault => raise (.protocolFault ⟨addr, apndp, .read⟩) (drain c (writeTurnaround s2))
    | .invalid => raise (.protocolError ⟨addr, apndp, .read⟩ ack) (drain c (writeTurnaround s2))

/-- `dpRead(addr, APnDP) -> data_out`: a fresh budget at every call (R173, R178). -/
def dpRead (c : Params) (addr : Word) (apndp : Bool) (s : State) : Run Word :=
  dpReadLoop c addr apndp c.waitAttempts (log .trace (.transaction ⟨addr, apndp, .read⟩) s)

/-- DP_WRITE (R168). -/
def execDpWrite (addr : Word) (apndp : Bool) (data : Word) (s : State) : Host.Outcome State Fault Refusal :=
  requirePins s (finishDone (dpWrite Config.params addr apndp data s))

/-- DP_READ (R173). -/
def execDpRead (addr : Word) (apndp : Bool) (s : State) : Host.Outcome State Fault Refusal :=
  requirePins s (finishWord (dpRead Config.params addr apndp s))

/-- EVEN_PARITY (R160): the bit, zero-extended; no wire and no state. -/
def execEvenParity (w : Word) (s : State) : Host.Outcome State Fault Refusal :=
  .next (presentWord ((BitVec.ofBool (evenParity w)).setWidth 32) s)

/-- PACK_HEADER (R162): the byte, zero-extended; no wire and no state. -/
def execPackHeader (addr : Word) (apndp rnw : Bool) (s : State) : Host.Outcome State Fault Refusal :=
  .next (presentWord ((packHeader addr apndp rnw).setWidth 32) s)

end Sys2Proof.Machine
end

