-- ==== Sys2Proof/Machine/Ap.lean ====
section
/-! DEFINITION. Layer 3 (42_ap_layer.md): the access-port register selector with its one-entry cache, and the commands
AP_SELECT, AP_WRITE, AP_READ. -/

namespace Sys2Proof.Machine

/-- `selectAccessPort(port, addr)`: nothing on a cache hit; otherwise the SELECT write, and the cache only if it
succeeded (R201). -/
def selectAccessPort (c : Params) (port : BitVec 8) (addr : Word) (s : State) : Run Unit :=
  let sel := selectValue port addr
  if sel = s.selcache then (.ok (), s)
  else andThen (dpWrite c c.dpSelect false sel s) fun _ s1 => (.ok (), setSelcache sel s1)

/-- `apWrite(port, addr, data)`: select, then one DP write with APnDP = 1 (R203). -/
def apWrite (c : Params) (port : BitVec 8) (addr data : Word) (s : State) : Run Unit :=
  andThen (selectAccessPort c port addr s) fun _ s1 => dpWrite c (bankAddress addr) true data s1

/-- `apRead(port, addr)`: select, then exactly one DP read with APnDP = 1, whose word is the result (R204, R206). -/
def apRead (c : Params) (port : BitVec 8) (addr : Word) (s : State) : Run Word :=
  andThen (selectAccessPort c port addr s) fun _ s1 => dpRead c (bankAddress addr) true s1

/-- AP_SELECT (R201); `port > 3` refused (R202). -/
def execApSelect (port : BitVec 8) (addr : Word) (s : State) : Host.Outcome State Fault Refusal :=
  requirePins s (requireLegal (portLegal Config.params port) (.noSuchPort port)
    (finishDone (selectAccessPort Config.params port addr s)))

/-- AP_WRITE (R203); `port > 3` refused (R202). -/
def execApWrite (port : BitVec 8) (addr data : Word) (s : State) : Host.Outcome State Fault Refusal :=
  requirePins s (requireLegal (portLegal Config.params port) (.noSuchPort port)
    (finishDone (apWrite Config.params port addr data s)))

/-- AP_READ (R204); `port > 3` refused (R202). -/
def execApRead (port : BitVec 8) (addr : Word) (s : State) : Host.Outcome State Fault Refusal :=
  requirePins s (requireLegal (portLegal Config.params port) (.noSuchPort port)
    (finishWord (apRead Config.params port addr s)))

end Sys2Proof.Machine
end

