-- ==== Sys2Proof/Machine/Link.lean ====
section
/-! DEFINITION. Link initialization (43_memory_and_init.md sections 1 and 3): the seven steps, and the commands
INITIALIZE and SET_VERBOSITY. -/

namespace Sys2Proof.Machine

/-- Step 1: load the configuration, clear LINK_READY, four GPIO actions and no pulse, invalidate the cache (R221). -/
def linkStep1 (c : Params) (clk dio : PinId) (level : Level) (s : State) : State :=
  { s with
    clkPin := clk
    dioPin := dio
    verbosity := level
    linkReady := false
    pinsReady := true
    clkLevel := true
    dioLatch := true
    dioMode := .outPP
    selcache := c.selcacheInvalid
    gpio := s.gpio ++ [.setLevel .clk clk true, .setMode .clk clk .outPP, .setLevel .dio dio true,
      .setMode .dio dio .outPP] }

/-- The trace events of a run sent in pieces, each after its piece's GPIO actions, three a bit (R134, R139, R222); `actions`
had been made before the run. -/
def runEvents (value : Word) (actions : Nat) : List Nat → List Emitted
  | [] => []
  | m :: pieces => ⟨⟨.trace, .wireWrite value m⟩, actions + 3 * m⟩ :: runEvents value (actions + 3 * m) pieces

/-- Hand over the trace events of a run, if the threshold lets them pass (R27, R139). -/
def logRun (value : Word) (actions : Nat) (pieces : List Nat) (s : State) : State :=
  { s with diag := if Level.trace.passes s.verbosity then s.diag ++ runEvents value actions pieces else s.diag }

/-- `sendRun(level, k)`: `k` bits of one level (R222). -/
def sendRun (level : Bool) (k : Nat) (s : State) : State :=
  logRun (if level then 0xFFFFFFFF else 0) s.gpio.length (runPieces k) (driveBits (List.replicate k level) s)

/-- Step 2: line reset, switch code, line reset, trailing zeros (R222). -/
def linkStep2 (c : Params) (s : State) : State :=
  sendRun false c.trailingZeroBits (sendRun true c.lineResetOnes
    (writeBits c.switchCode c.switchBits (sendRun true c.lineResetOnes s)))

/-- Step 3: read IDCODE; any failure is re-labelled NoDeviceDetected, with a second diagnostic (R223, C8). -/
def linkStep3 (c : Params) (s : State) : Run Word :=
  match dpRead c c.dpIdcode false s with
  | (.ok idcode, s1) => (.ok idcode, s1)
  | (.error e, s1) => raise (.noDeviceDetected e) s1

/-- Step 4: check the IDCODE and emit the milestone (R224). -/
def linkStep4 (c : Params) (idcode : Word) (s : State) : Run Unit :=
  if idcodeRecognized c idcode then (.ok (), log .normal (.foundArmProcessor idcode) s)
  else raise (.unrecognizedPart idcode) s

/-- The CTRLSTAT polls of step 5, `polls` of them left, `last` the word of the poll before (R225). -/
def pollLoop (c : Params) : Nat → Word → State → Run Unit
  | 0, last, s => raise (.powerUpTimeout last) s
  | polls + 1, _, s =>
    andThen (dpRead c c.dpCtrlstat false s) fun v s1 =>
      if powerUpAcknowledged c v then (.ok (), s1) else pollLoop c polls v s1

/-- Step 5: request power-up, then poll (R225). -/
def linkStep5 (c : Params) (s : State) : Run Unit :=
  andThen (dpWrite c c.dpCtrlstat false c.pwrupReq s) fun _ s1 => pollLoop c c.powerupPolls 0 s1

/-- Step 6: read IDR of the default port and check its type (R226). -/
def linkStep6 (c : Params) (s : State) : Run Unit :=
  andThen (apRead c c.defaultPort c.apIdr s) fun idr s1 =>
    if isMemoryPort c idr then (.ok (), s1) else raise (.unexpectedAccessPortType idr) s1

/-- Step 7: write CSW of the default port (R227). -/
def linkStep7 (c : Params) (s : State) : Run Unit :=
  apWrite c c.defaultPort c.apCsw c.cswDefault s

/-- Steps 3 to 7 and the ready flag; the first failing step ends the command (R220, R228). -/
def bringUp (c : Params) (s : State) : Run Unit :=
  andThen (linkStep3 c s) fun idcode s3 =>
  andThen (linkStep4 c idcode s3) fun _ s4 =>
  andThen (linkStep5 c s4) fun _ s5 =>
  andThen (linkStep6 c s5) fun _ s6 =>
  andThen (linkStep7 c s6) fun _ s7 => (.ok (), markReady s7)

/-- `initialize(config)` (R220). -/
def linkInitialize (c : Params) (clk dio : PinId) (level : Level) (s : State) : Run Unit :=
  bringUp c (linkStep2 c (linkStep1 c clk dio level s))

/-- INITIALIZE (R220); `config.verbosity` 3 refused (U12). -/
def execLinkInit (clk dio : PinId) (verbosity : BitVec 2) (s : State) : Host.Outcome State Fault Refusal :=
  match levelOf Config.params verbosity with
  | some level => finishDone (linkInitialize Config.params clk dio level s)
  | none => .refused (.noSuchLevel verbosity)

/-- SET_VERBOSITY (R236); level 3 refused. -/
def execSetVerbosity (level : BitVec 2) (s : State) : Host.Outcome State Fault Refusal :=
  match levelOf Config.params level with
  | some l => .next (presentDone (putVerbosity l s))
  | none => .refused (.noSuchLevel level)

end Sys2Proof.Machine
end

