-- ==== Sys2Proof/Machine/Mem.lean ====
section
/-! DEFINITION. The memory access facade (43_memory_and_init.md section 2): the commands MEM_STORE, MEM_LOAD,
MEM_STORE_N, MEM_LOAD_N. -/

namespace Sys2Proof.Machine

/-- The word loop of a store: one DRW write per word, in index order; `localAddr` is diagnostic only (R232, R235). -/
def storeWords (c : Params) : List Word → Word → State → Run Unit
  | [], _, s => (.ok (), s)
  | w :: ws, localAddr, s =>
    andThen (apWrite c c.defaultPort c.apDrw w (log .trace (.memStoreWord localAddr w) s)) fun _ s1 =>
      storeWords c ws (localAddr + c.wordBytes) s1

/-- `memoryStore(address, buffer, count)`: TAR once, then one DRW write per word (R232). -/
def memoryStore (c : Params) (address : Word) (buffer : List Word) (s : State) : Run Unit :=
  andThen (apWrite c c.defaultPort c.apTar address s) fun _ s1 => storeWords c buffer address s1

/-- The word loop of a load: one DRW read per word, `n` words left (R233, R235). -/
def loadWords (c : Params) : Nat → Word → State → Run (List Word)
  | 0, _, s => (.ok [], s)
  | n + 1, localAddr, s =>
    andThen (apRead c c.defaultPort c.apDrw s) fun w s1 =>
      andThen (loadWords c n (localAddr + c.wordBytes) (log .trace (.memLoadWord localAddr w) s1)) fun ws s2 =>
        (.ok (w :: ws), s2)

/-- `memoryLoad(address, buffer, count)`: TAR once, then one DRW read per word (R233). -/
def memoryLoad (c : Params) (address : Word) (n : Nat) (s : State) : Run (List Word) :=
  andThen (apWrite c c.defaultPort c.apTar address s) fun _ s1 => loadWords c n address s1

/-- MEM_STORE: the vectorized store of one word (R230). -/
def execMemStore (address word : Word) (s : State) : Host.Outcome State Fault Refusal :=
  requirePins s (finishDone (memoryStore Config.params address [word] s))

/-- MEM_LOAD: the vectorized load of one word, which is the result (R231). -/
def execMemLoad (address : Word) (s : State) : Host.Outcome State Fault Refusal :=
  requirePins s (finishWord (andThen (memoryLoad Config.params address 1 s) fun ws s1 => (.ok (ws.headD 0), s1)))

/-- MEM_STORE_N (R232); a buffer that is not `count` words is refused (R90; log 18). -/
def execMemStoreN (address count : Word) (buffer : List Word) (s : State) : Host.Outcome State Fault Refusal :=
  requirePins s (requireLegal (bufferLegal count buffer) .bufferNotCountWords
    (finishDone (memoryStore Config.params address buffer s)))

/-- MEM_LOAD_N (R233). -/
def execMemLoadN (address count : Word) (s : State) : Host.Outcome State Fault Refusal :=
  requirePins s (finishBuffer count.toNat (memoryLoad Config.params address count.toNat s))

end Sys2Proof.Machine
end

