-- ==== Sys2Proof/Machine/Packet.lean ====
section
/-! DEFINITION. The wire-packet rows of opcode_table.json: the four request classes of 30_encoding.md R98, each the DP
transaction whose header it is (R168, R173), and the bring-up sequence (R105, R222). That a packet can be asked for by
itself is a DESIGN CHOICE (log 2, log 3). -/

namespace Sys2Proof.Machine

/-- REQ_DP_WRITE: the DP register write whose header is of this class (R98, R168). -/
def execReqDpWrite (a3 a2 : Bool) (data : Word) (s : State) : Host.Outcome State Fault Refusal :=
  requirePins s (finishDone (dpWrite Config.params (registerAddress a3 a2) false data s))

/-- REQ_DP_READ: the DP register read whose header is of this class (R98, R173). -/
def execReqDpRead (a3 a2 : Bool) (s : State) : Host.Outcome State Fault Refusal :=
  requirePins s (finishWord (dpRead Config.params (registerAddress a3 a2) false s))

/-- REQ_AP_WRITE: the AP register write whose header is of this class (R98, R168); no selection. -/
def execReqApWrite (a3 a2 : Bool) (data : Word) (s : State) : Host.Outcome State Fault Refusal :=
  requirePins s (finishDone (dpWrite Config.params (registerAddress a3 a2) true data s))

/-- REQ_AP_READ: the AP register read whose header is of this class (R98, R173); no selection. -/
def execReqApRead (a3 a2 : Bool) (s : State) : Host.Outcome State Fault Refusal :=
  requirePins s (finishWord (dpRead Config.params (registerAddress a3 a2) true s))

/-- BRINGUP_SEQ: the sequence of `initialize` step 2 (R105, R222). -/
def execBringupSeq (s : State) : Host.Outcome State Fault Refusal :=
  requirePins s (.next (presentDone (linkStep2 Config.params s)))

end Sys2Proof.Machine
end

