-- ==== Sys2Proof/Machine/Wire.lean ====
section
/-! DEFINITION. Layer 1 commands (40_wire_layer.md): WRITE_BITS, READ_BITS, WRITE_TURNAROUND, READ_TURNAROUND. No wire
primitive can fail (R140). -/

namespace Sys2Proof.Machine

/-- WRITE_BITS (R134); `n > 32` refused (R133). -/
def execWriteBits (value : Word) (n : BitVec 6) (s : State) : Host.Outcome State Fault Refusal :=
  requirePins s (requireLegal (bitCountLegal n) (.bitCountAbove32 n)
    (.next (presentDone (writeBits value n.toNat s))))

/-- READ_BITS (R135); `n > 32` refused (R133). -/
def execReadBits (n : BitVec 6) (s : State) : Host.Outcome State Fault Refusal :=
  requirePins s (requireLegal (bitCountLegal n) (.bitCountAbove32 n)
    (.next (presentWord (readValue n.toNat s) (readBits n.toNat s))))

/-- WRITE_TURNAROUND (R137). -/
def execWriteTurnaround (s : State) : Host.Outcome State Fault Refusal :=
  requirePins s (.next (presentDone (writeTurnaround s)))

/-- READ_TURNAROUND (R136). -/
def execReadTurnaround (s : State) : Host.Outcome State Fault Refusal :=
  requirePins s (.next (presentDone (readTurnaround s)))

end Sys2Proof.Machine
end

