-- ==== Sys2Proof/Machine/Dispatch.lean ====
section
/-! DEFINITION. One arm per constructor of Instr: the meaning of each row of opcode_table.json. -/

namespace Sys2Proof.Machine

def exec (i : Instr) (s : State) : Host.Outcome State Fault Refusal :=
  match i with
  | .writeBits value n => Sys2Proof.Machine.execWriteBits value n s
  | .readBits n => Sys2Proof.Machine.execReadBits n s
  | .writeTurnaround => Sys2Proof.Machine.execWriteTurnaround s
  | .readTurnaround => Sys2Proof.Machine.execReadTurnaround s
  | .dpWrite addr apndp data => Sys2Proof.Machine.execDpWrite addr apndp data s
  | .dpRead addr apndp => Sys2Proof.Machine.execDpRead addr apndp s
  | .apSelect port addr => Sys2Proof.Machine.execApSelect port addr s
  | .apWrite port addr data => Sys2Proof.Machine.execApWrite port addr data s
  | .apRead port addr => Sys2Proof.Machine.execApRead port addr s
  | .linkInit clk dio verbosity => Sys2Proof.Machine.execLinkInit clk dio verbosity s
  | .memStore address word => Sys2Proof.Machine.execMemStore address word s
  | .memLoad address => Sys2Proof.Machine.execMemLoad address s
  | .memStoreN address count buffer => Sys2Proof.Machine.execMemStoreN address count buffer s
  | .memLoadN address count => Sys2Proof.Machine.execMemLoadN address count s
  | .setVerbosity level => Sys2Proof.Machine.execSetVerbosity level s
  | .evenParity w => Sys2Proof.Machine.execEvenParity w s
  | .packHeader addr apndp rnw => Sys2Proof.Machine.execPackHeader addr apndp rnw s
  | .reqDpWrite a3 a2 data => Sys2Proof.Machine.execReqDpWrite a3 a2 data s
  | .reqDpRead a3 a2 => Sys2Proof.Machine.execReqDpRead a3 a2 s
  | .reqApWrite a3 a2 data => Sys2Proof.Machine.execReqApWrite a3 a2 data s
  | .reqApRead a3 a2 => Sys2Proof.Machine.execReqApRead a3 a2 s
  | .bringupSeq => Sys2Proof.Machine.execBringupSeq s

end Sys2Proof.Machine
end

