-- ==== Sys2Proof/Machine/Fetch.lean ====
section
/-! DEFINITION. How the core gets its next command: the host presents one at a time (10_state.md R40, R42), and an idle
core waits (R301). Step.lean only calls these. -/

namespace Sys2Proof.Machine

/-- What the command port offers an idle core. -/
inductive Offer where
  /-- Nothing is presented: the core stays idle (R301). -/
  | idle
  /-- A presentation that decodes, and the state with it taken off the host's script. -/
  | command (i : Instr) (s : State)
  /-- A presentation that names no operation (R93). -/
  | unknown (r : Reject)
  deriving DecidableEq, Repr

/-- Take the next presentation and decode it (R40, R92). -/
def nextCommand (s : State) : Offer :=
  match s.hostScript with
  | [] => .idle
  | p :: rest =>
    match decode p with
    | .ok i => .command i { s with hostScript := rest }
    | .error r => .unknown r

/-- Run what the command port offers: idle leaves the state as it is (R301), an unknown operation is refused (R93). -/
def runOffer (s : State) (o : Offer) : Host.Outcome State Fault Refusal :=
  match o with
  | .idle => .next s
  | .command i s1 => exec i s1
  | .unknown r => .refused (.unknownOperation r)

/-- The operation is refused until one INITIALIZE has run its step 1 (R302). -/
def needsPins : Instr → Bool
  | .linkInit _ _ _ => false
  | .setVerbosity _ => false
  | .evenParity _ => false
  | .packHeader _ _ _ => false
  | .writeBits _ _ => true
  | .readBits _ => true
  | .writeTurnaround => true
  | .readTurnaround => true
  | .dpWrite _ _ _ => true
  | .dpRead _ _ => true
  | .apSelect _ _ => true
  | .apWrite _ _ _ => true
  | .apRead _ _ => true
  | .memStore _ _ => true
  | .memLoad _ => true
  | .memStoreN _ _ _ => true
  | .memLoadN _ _ => true
  | .reqDpWrite _ _ _ => true
  | .reqDpRead _ _ => true
  | .reqApWrite _ _ _ => true
  | .reqApRead _ _ => true
  | .bringupSeq => true

/-- The presentation decodes to an operation that needs the pins. -/
def presentationNeedsPins (p : Presented) : Bool :=
  match decode p with
  | .ok i => needsPins i
  | .error _ => false

/-- Step 1 of an INITIALIZE with the configuration the state already holds, if none has run (R221, R302; log 15). -/
def preparePins (s : State) : State :=
  if s.pinsReady then s else linkStep1 Config.params s.clkPin s.dioPin s.verbosity s

/-- Present `p` next. Where `p` is refused until an INITIALIZE has run its step 1, that step stands as already run
(log 15). -/
def presentNext (p : Presented) (s : State) : State :=
  let s1 := if presentationNeedsPins p then preparePins s else s
  { s1 with hostScript := p :: s1.hostScript }

end Sys2Proof.Machine
end

