-- ==== Sys2Proof/Machine/Step.lean ====
section
/-! DEFINITION. One step: one command run to completion (10_state.md R42), or an idle core left idle (R301). -/

namespace Sys2Proof.Machine

/-- One step (R42; a command is one step: DESIGN CHOICE, safe, log 12). -/
def step (s : State) : Host.Outcome State Fault Refusal :=
  runOffer s (nextCommand s)

/-- The state with the opcode-table word `w` of `nbits` bits presented next, every operand port 0 (log 15). -/
def State.withFetchWord (s : State) (nbits w : Nat) : State :=
  presentNext (presentationOf nbits w) s

end Sys2Proof.Machine
end

