-- ==== Sys2Proof/Safety.lean ====
section
/-! DEFINITION. The terms claims use: the output signals and what an observer of the two lines sees, the target's
answers, the framed line, the invariant of the core, and what an operation may leave unchanged. -/

namespace Sys2Proof.Machine

/-! ### The GPIO port's signals (R43, R44) -/

/-- `swclk_out` (R43). -/
def State.swclkOut (s : State) : Bool := s.clkLevel

/-- `swdio_out` (R43). -/
def State.swdioOut (s : State) : Bool := s.dioLatch

/-- `swdio_oe` (R43). -/
def State.swdioOe (s : State) : Bool := decide (s.dioMode = .outPP)

/-- The level on the data line while the target drives `drive` (R44). -/
def State.lineLevel (s : State) (drive : Option Bool) : Bool :=
  match s.dioMode with
  | .outPP => s.dioLatch
  | .inPU => drive.getD true

/-! ### What was done on the lines between two states -/

/-- The GPIO actions from `s` to `t`, where `t` comes from `s` by running operations. -/
def actionsSince (s t : State) : List GpioEvent :=
  t.gpio.drop s.gpio.length

/-- A clock pulse is counted at its falling edge; `initialize` step 1 sets the clock level without one (R138). -/
def isPulse : GpioEvent → Bool
  | .setLevel .clk _ false => true
  | _ => false

/-- The number of clock pulses in a list of GPIO actions (R12, R138). -/
def pulseCount (es : List GpioEvent) : Nat :=
  es.countP isPulse

/-- The clock pulses made from `s` to `t` (R12). -/
def pulsesSince (s t : State) : Nat :=
  pulseCount (actionsSince s t)

/-- What an observer of the two lines sees the core drive at each rising clock edge: the latch while the mode is output,
nothing while it is input. The arguments are the clock level, mode and latch before the actions. -/
def clockedBits : Bool → DriveMode → Bool → List GpioEvent → List (Option Bool)
  | _, _, _, [] => []
  | clk, mode, latch, e :: es =>
    match e with
    | .setMode .dio _ m => clockedBits clk m latch es
    | .setMode .clk _ _ => clockedBits clk mode latch es
    | .setLevel .dio _ b => clockedBits clk mode b es
    | .setLevel .clk _ b =>
      if b && !clk then
        (match mode with
          | .outPP => some latch
          | .inPU => none) :: clockedBits b mode latch es
      else clockedBits b mode latch es
    | .readLevel _ _ _ => clockedBits clk mode latch es

/-- What the core drove at each rising edge from `s` to `t`. -/
def bitsSince (s t : State) : List (Option Bool) :=
  clockedBits s.clkLevel s.dioMode s.dioLatch (actionsSince s t)

/-- The actions the core makes on the lines, without what its samples read. -/
def isDriving : GpioEvent → Bool
  | .readLevel _ _ _ => false
  | _ => true

/-! ### The layouts of an attempt (R104), as an observer sees them: `some b` the core drives `b`, `none` it does not -/

/-- Write, acknowledge OK: header, turnaround, acknowledge, turnaround, data, parity, idle (54 pulses). -/
def writeAttempt (header : BitVec 8) (data : Word) : List (Option Bool) :=
  (lsbBits header 8).map some ++ List.replicate 5 none
    ++ (lsbBits data 32 ++ [evenParity data] ++ List.replicate 8 false).map some

/-- Read, acknowledge OK: header, turnaround, acknowledge, data, parity, turnaround, idle (54 pulses). -/
def readAttempt (header : BitVec 8) : List (Option Bool) :=
  (lsbBits header 8).map some ++ List.replicate 38 none ++ List.replicate 8 (some false)

/-- Any other acknowledge: header, turnaround, acknowledge, turnaround, idle (21 pulses). -/
def shortAttempt (header : BitVec 8) : List (Option Bool) :=
  (lsbBits header 8).map some ++ List.replicate 5 none ++ List.replicate 8 (some false)

/-- `k` attempts of the short layout, one after the other. -/
def shortAttempts (header : BitVec 8) (k : Nat) : List (Option Bool) :=
  (List.replicate k (shortAttempt header)).flatten

/-- A write transaction answered WAIT `k` times and then OK. -/
def writeTransaction (header : BitVec 8) (data : Word) (k : Nat) : List (Option Bool) :=
  shortAttempts header k ++ writeAttempt header data

/-- A read transaction answered WAIT `k` times and then OK. -/
def readTransaction (header : BitVec 8) (k : Nat) : List (Option Bool) :=
  shortAttempts header k ++ readAttempt header

/-- A write transaction that fails by its acknowledge after `n` pulses: short attempts alone (R170 to R172). -/
def failedWrite (header : BitVec 8) (n : Nat) : List (Option Bool) :=
  shortAttempts header (n / 21)

/-- A read transaction that fails with kind `e` after `n` pulses: the attempts of a success if it is the parity that
failed (R174), short attempts alone otherwise. -/
def failedRead (header : BitVec 8) (e : ErrorKind) (n : Nat) : List (Option Bool) :=
  if e = .parityError then readTransaction header ((n - 54) / 21) else shortAttempts header (n / 21)

/-- The pulses of a transaction answered WAIT `k` times and then OK (R104). -/
def transactionPulses (k : Nat) : Nat :=
  21 * k + 54

/-- The header an observer reads in the first eight bits of an attempt, bit 0 first (R10). -/
def observedHeader (bits : List (Option Bool)) : BitVec 8 :=
  (wordOfBits ((bits.take 8).map (·.getD true))).setWidth 8

/-- The data an observer reads in a write attempt, bit 0 first. -/
def observedData (bits : List (Option Bool)) : Word :=
  wordOfBits (((bits.drop 13).take 32).map (·.getD true))

/-! ### The target's answers -/

/-- The samples to come read the levels `ls`, in that order, while the line is released (R44, R45). -/
def State.shows (s : State) (ls : List Bool) : Prop :=
  targetLevels ls.length s.targetScript = ls

/-- An acknowledge, first sampled bit first (R99). -/
def ackLevels (ack : BitVec 3) : List Bool :=
  lsbBits ack 3

/-- `k` attempts answered WAIT. -/
def waitLevels (k : Nat) : List Bool :=
  (List.replicate k (ackLevels Config.params.ackWait)).flatten

/-- A write answered WAIT `k` times and then OK. -/
def writeAnswer (k : Nat) : List Bool :=
  waitLevels k ++ ackLevels Config.params.ackOk

/-- A read answered WAIT `k` times and then OK with a word and a parity bit. -/
def readAnswerWith (k : Nat) (w : Word) (parity : Bool) : List Bool :=
  waitLevels k ++ ackLevels Config.params.ackOk ++ lsbBits w 32 ++ [parity]

/-- A read answered WAIT `k` times and then OK with a word and its even parity. -/
def readAnswer (k : Nat) (w : Word) : List Bool :=
  readAnswerWith k w (evenParity w)

/-! ### Diagnostics -/

/-- The event is of error level (R46). -/
def Diag.isError (d : Diag) : Bool :=
  decide (d.level = .error)

/-- The error-level diagnostics of a state, oldest first. -/
def State.errorEvents (s : State) : List Diag :=
  (s.diag.map Emitted.diag).filter Diag.isError

/-- The normal-level milestones of a state, oldest first. -/
def State.milestones (s : State) : List Diag :=
  (s.diag.map Emitted.diag).filter fun d => decide (d.level = .normal)

/-- Every error-level diagnostic handed over from `s` to `t` came after the last GPIO action (R166, R262). -/
def ReportsLast (s t : State) : Prop :=
  ∃ es : List Emitted, t.diag = s.diag ++ es ∧ ∀ e ∈ es, e.diag.isError = true → e.actions = t.gpio.length

/-! ### Properties of states -/

/-- The wire is framed: the core drives idle, the clock rests high (R167, R264). -/
def State.Framed (s : State) : Prop :=
  s.dioMode = .outPP ∧ s.dioLatch = false ∧ s.clkLevel = true

/-- The drain, as GPIO actions: 8 idle bits of level 0 (R166). -/
def idleActions (s : State) : List GpioEvent :=
  (List.replicate 8 false).flatMap (writeBitActions s)

/-- A value SELCACHE may hold: the sentinel, or a SELECT value of a legal port (R24, R25, R202). -/
def LegalSelection (w : Word) : Prop :=
  w = Config.params.selcacheInvalid ∨
    ∃ (port : BitVec 8) (addr : Word), port.toNat < Config.params.numPorts ∧ w = selectValue port addr

/-- The invariant of the core. -/
structure State.Inv (s : State) : Prop where
  /-- The cache holds the sentinel or a selection (R24). -/
  selection : LegalSelection s.selcache
  /-- A ready link has its pins configured (R221, R228). -/
  readyPins : s.linkReady = true → s.pinsReady = true
  /-- A ready link has a real selection cached (R227, R228). -/
  readySelection : s.linkReady = true → s.selcache ≠ Config.params.selcacheInvalid
  /-- Between operations the clock rests high (R28, R131). -/
  clockRests : s.pinsReady = true → s.clkLevel = true
  /-- The error code is one of the table's, and 0 on success (R41, R260). -/
  errorCode : s.result.err.toNat ≤ 8
  okCode : s.result.ok = true → s.result.err = 0

/-- `i` ends in a next state, and that state has `P`. -/
def Completes (i : Instr) (s : State) (P : State → Prop) : Prop :=
  ∃ t, exec i s = .next t ∧ P t

/-- The link's own state and the host's side are as before: all but the pins, the result port, the load buffer, the
free-value counter, the target's answers and the two output streams. -/
structure SameLink (s t : State) : Prop where
  clkPin : t.clkPin = s.clkPin
  dioPin : t.dioPin = s.dioPin
  verbosity : t.verbosity = s.verbosity
  linkReady : t.linkReady = s.linkReady
  pinsReady : t.pinsReady = s.pinsReady
  hostScript : t.hostScript = s.hostScript

/-- The pins are as before (R28). -/
structure SamePins (s t : State) : Prop where
  clkLevel : t.clkLevel = s.clkLevel
  dioMode : t.dioMode = s.dioMode
  dioLatch : t.dioLatch = s.dioLatch

/-- Nothing was done on the wire and nothing emitted. -/
structure Silent (s t : State) : Prop where
  gpio : t.gpio = s.gpio
  diag : t.diag = s.diag
  targetScript : t.targetScript = s.targetScript

/-- All that a DP transaction leaves as it was (R163): everything but the pins, the result port, the free-value counter,
the target's answers and the two output streams. -/
structure SameButWire (s t : State) : Prop extends SameLink s t where
  selcache : t.selcache = s.selcache
  loadBuffer : t.loadBuffer = s.loadBuffer

/-- The result port shows success (R41). -/
def State.Succeeded (s : State) : Prop :=
  s.result.ok = true ∧ s.result.err = 0

/-- The result port shows failure of kind `e` (R41, R260). -/
def State.FailedWith (s : State) (e : ErrorKind) : Prop :=
  s.result.ok = false ∧ s.result.err = e.code

/-- The host's side and the load buffer are as before. -/
structure SameHost (s t : State) : Prop where
  hostScript : t.hostScript = s.hostScript
  loadBuffer : t.loadBuffer = s.loadBuffer

/-! ### Claims shared by several commands -/

/-- `i` is a write transaction with this header and payload: answered WAIT `k` times, `k` within the budget, and then OK,
it succeeds after `21k + 54` pulses, leaves the wire framed and everything but the wire as it was, and, if the core was
driving the line, an observer sees exactly the attempts of R104. -/
def WriteSucceeds (i : Instr) (header : BitVec 8) (data : Word) : Prop :=
  ∀ (s : State) (k : Nat), s.pinsReady = true → k < Config.params.waitAttempts → s.shows (writeAnswer k) →
    Completes i s fun t =>
      t.Succeeded ∧ t.Framed ∧ SameButWire s t ∧ t.errorEvents = s.errorEvents ∧
      t.targetScript = s.targetScript.drop (3 * k + 3) ∧ pulsesSince s t = transactionPulses k ∧
      (s.dioMode = .outPP → bitsSince s t = writeTransaction header data k)

/-- `i` is a read transaction with this header: answered WAIT `k` times and then OK with a word and its even parity, it
succeeds with that word. -/
def ReadSucceeds (i : Instr) (header : BitVec 8) : Prop :=
  ∀ (s : State) (k : Nat) (w : Word), s.pinsReady = true → k < Config.params.waitAttempts →
    s.shows (readAnswer k w) →
    Completes i s fun t =>
      t.Succeeded ∧ t.result.rdata = w ∧ t.Framed ∧ SameButWire s t ∧ t.errorEvents = s.errorEvents ∧
      t.targetScript = s.targetScript.drop (3 * k + 36) ∧ pulsesSince s t = transactionPulses k ∧
      (s.dioMode = .outPP → bitsSince s t = readTransaction header k)

/-- `i` is a transaction for `request` with this header: answered WAIT `k` times, `k` within the budget, and then neither
OK nor WAIT, it fails with ProtocolFault or ProtocolError after `21(k + 1)` pulses; answered WAIT as often as the budget
allows, it fails with WaitTimeout after `21 * WAIT_ATTEMPTS` pulses. Each failure leaves the wire framed, everything but
the wire as it was, and one error-level diagnostic with the request. -/
def AcknowledgeFailures (i : Instr) (header : BitVec 8) (request : Request) : Prop :=
  (∀ (s : State) (k : Nat) (a : BitVec 3), s.pinsReady = true → k < Config.params.waitAttempts →
    a ≠ Config.params.ackOk → a ≠ Config.params.ackWait → s.shows (waitLevels k ++ ackLevels a) →
    Completes i s fun t =>
      t.FailedWith (if a = Config.params.ackFault then .protocolFault else .protocolError) ∧ t.Framed ∧
      SameButWire s t ∧ t.targetScript = s.targetScript.drop (3 * k + 3) ∧ pulsesSince s t = 21 * (k + 1) ∧
      t.errorEvents = s.errorEvents ++ [⟨.error, .failure (if a = Config.params.ackFault then .protocolFault request
        else .protocolError request a)⟩] ∧
      (s.dioMode = .outPP → bitsSince s t = shortAttempts header (k + 1))) ∧
  (∀ s : State, s.pinsReady = true → s.shows (waitLevels Config.params.waitAttempts) →
    Completes i s fun t =>
      t.FailedWith .waitTimeout ∧ t.Framed ∧ SameButWire s t ∧
      t.targetScript = s.targetScript.drop (3 * Config.params.waitAttempts) ∧
      pulsesSince s t = 21 * Config.params.waitAttempts ∧
      t.errorEvents = s.errorEvents ++ [⟨.error, .failure (.waitTimeout request)⟩] ∧
      (s.dioMode = .outPP → bitsSince s t = shortAttempts header Config.params.waitAttempts))

/-- The levels of a SELECT write answered WAIT `j` times and then OK, if the cache does not hold `sel` (R201). -/
def selectLevels (s : State) (sel : Word) (j : Nat) : List Bool :=
  if sel = s.selcache then [] else writeAnswer j

/-- The pulses of that SELECT write (R201). -/
def selectPulses (s : State) (sel : Word) (j : Nat) : Nat :=
  if sel = s.selcache then 0 else transactionPulses j

/-- What an observer sees of it: header 0xB1, the SELECT value (R97, R201). -/
def selectBits (s : State) (sel : Word) (j : Nat) : List (Option Bool) :=
  if sel = s.selcache then [] else writeTransaction 0xB1 sel j

/-! ### Every way a transaction or a command can be answered, with its levels and pulses -/

/-- The answers that make a transaction fail by its acknowledge, with the kind and the pulses (R104, R165, R178). -/
inductive AckFailure : List Bool → ErrorKind → Nat → Prop where
  | fault (k : Nat) : k < Config.params.waitAttempts →
      AckFailure (waitLevels k ++ ackLevels Config.params.ackFault) .protocolFault (21 * (k + 1))
  | invalid (k : Nat) (a : BitVec 3) : k < Config.params.waitAttempts → classify Config.params a = .invalid →
      AckFailure (waitLevels k ++ ackLevels a) .protocolError (21 * (k + 1))
  | timeout : AckFailure (waitLevels Config.params.waitAttempts) .waitTimeout (21 * Config.params.waitAttempts)

/-- The answers that make a read fail: its acknowledge, or the parity (R174). -/
inductive ReadFailure : List Bool → ErrorKind → Nat → Prop where
  | ack (ls : List Bool) (e : ErrorKind) (n : Nat) : AckFailure ls e n → ReadFailure ls e n
  | parity (k : Nat) (w : Word) : k < Config.params.waitAttempts →
      ReadFailure (readAnswerWith k w (!evenParity w)) .parityError (transactionPulses k)

/-- CTRLSTAT words, each with its WAITs, none of which has both acknowledge bits (R225). -/
def Pending (polls : List (Nat × Word)) : Prop :=
  ∀ p ∈ polls, p.1 < Config.params.waitAttempts ∧ powerUpAcknowledged Config.params p.2 = false

/-- The levels of reads that succeed, each with its WAITs. -/
def readLevels (reads : List (Nat × Word)) : List Bool :=
  reads.flatMap fun p => readAnswer p.1 p.2

/-- The levels of writes that succeed, each with its WAITs. -/
def writeLevels (writes : List (Nat × Word)) : List Bool :=
  writes.flatMap fun p => writeAnswer p.1

/-- The pulses of transactions that succeed, each with its WAITs. -/
def totalPulses (accesses : List (Nat × Word)) : Nat :=
  (accesses.map fun p => transactionPulses p.1).sum

/-- Answers that take `initialize` through step 4 with this IDCODE (R223, R224). -/
inductive IdcodePassed : List Bool → Nat → Word → Prop where
  | mk (k : Nat) (w : Word) : k < Config.params.waitAttempts → idcodeRecognized Config.params w = true →
      IdcodePassed (readAnswer k w) (transactionPulses k) w

/-- Answers that take it through step 5 (R225). -/
inductive PoweredUp : List Bool → Nat → Word → Prop where
  | mk (ls : List Bool) (n : Nat) (idcode : Word) (k : Nat) (polls : List (Nat × Word)) (j : Nat) (v : Word) :
      IdcodePassed ls n idcode → k < Config.params.waitAttempts → Pending polls →
      polls.length < Config.params.powerupPolls → j < Config.params.waitAttempts →
      powerUpAcknowledged Config.params v = true →
      PoweredUp (ls ++ writeAnswer k ++ readLevels polls ++ readAnswer j v)
        (n + transactionPulses k + totalPulses polls + transactionPulses j) idcode

/-- Answers that take it through step 6 (R226). -/
inductive TypeChecked : List Bool → Nat → Word → Prop where
  | mk (ls : List Bool) (n : Nat) (idcode : Word) (k j : Nat) (idr : Word) :
      PoweredUp ls n idcode → k < Config.params.waitAttempts → j < Config.params.waitAttempts →
      isMemoryPort Config.params idr = true →
      TypeChecked (ls ++ writeAnswer k ++ readAnswer j idr) (n + transactionPulses k + transactionPulses j) idcode

/-- Every way `initialize` can fail: the answers, the kind, SELCACHE afterwards, and the pulses after the bring-up
sequence (R220, R223 to R227). -/
inductive InitFailure : List Bool → ErrorKind → Word → Nat → Prop where
  | idcodeRead (ls : List Bool) (e : ErrorKind) (n : Nat) : ReadFailure ls e n →
      InitFailure ls .noDeviceDetected 0xFFFFFFFF n
  | idcodeValue (k : Nat) (w : Word) : k < Config.params.waitAttempts →
      idcodeRecognized Config.params w = false →
      InitFailure (readAnswer k w) .unrecognizedPart 0xFFFFFFFF (transactionPulses k)
  | powerUpWrite (ls : List Bool) (n : Nat) (idcode : Word) (ls' : List Bool) (e : ErrorKind) (m : Nat) :
      IdcodePassed ls n idcode → AckFailure ls' e m → InitFailure (ls ++ ls') e 0xFFFFFFFF (n + m)
  | pollRead (ls : List Bool) (n : Nat) (idcode : Word) (k : Nat) (polls : List (Nat × Word)) (ls' : List Bool)
      (e : ErrorKind) (m : Nat) :
      IdcodePassed ls n idcode → k < Config.params.waitAttempts → Pending polls →
      polls.length < Config.params.powerupPolls → ReadFailure ls' e m →
      InitFailure (ls ++ writeAnswer k ++ readLevels polls ++ ls') e 0xFFFFFFFF
        (n + transactionPulses k + totalPulses polls + m)
  | powerUpTimeout (ls : List Bool) (n : Nat) (idcode : Word) (k : Nat) (polls : List (Nat × Word)) :
      IdcodePassed ls n idcode → k < Config.params.waitAttempts → Pending polls →
      polls.length = Config.params.powerupPolls →
      InitFailure (ls ++ writeAnswer k ++ readLevels polls) .powerUpTimeout 0xFFFFFFFF
        (n + transactionPulses k + totalPulses polls)
  | idrSelect (ls : List Bool) (n : Nat) (idcode : Word) (ls' : List Bool) (e : ErrorKind) (m : Nat) :
      PoweredUp ls n idcode → AckFailure ls' e m → InitFailure (ls ++ ls') e 0xFFFFFFFF (n + m)
  | idrRead (ls : List Bool) (n : Nat) (idcode : Word) (k : Nat) (ls' : List Bool) (e : ErrorKind) (m : Nat) :
      PoweredUp ls n idcode → k < Config.params.waitAttempts → ReadFailure ls' e m →
      InitFailure (ls ++ writeAnswer k ++ ls') e 0x000000F0 (n + transactionPulses k + m)
  | idrValue (ls : List Bool) (n : Nat) (idcode : Word) (k j : Nat) (w : Word) :
      PoweredUp ls n idcode → k < Config.params.waitAttempts → j < Config.params.waitAttempts →
      isMemoryPort Config.params w = false →
      InitFailure (ls ++ writeAnswer k ++ readAnswer j w) .unexpectedAccessPortType 0x000000F0
        (n + transactionPulses k + transactionPulses j)
  | cswSelect (ls : List Bool) (n : Nat) (idcode : Word) (ls' : List Bool) (e : ErrorKind) (m : Nat) :
      TypeChecked ls n idcode → AckFailure ls' e m → InitFailure (ls ++ ls') e 0x000000F0 (n + m)
  | cswWrite (ls : List Bool) (n : Nat) (idcode : Word) (k : Nat) (ls' : List Bool) (e : ErrorKind) (m : Nat) :
      TypeChecked ls n idcode → k < Config.params.waitAttempts → AckFailure ls' e m →
      InitFailure (ls ++ writeAnswer k ++ ls') e 0 (n + transactionPulses k + m)

/-- The pulses of the bring-up sequence (R105, R222). -/
def bringupPulses : Nat :=
  2 * Config.params.lineResetOnes + 16 + Config.params.trailingZeroBits

/-! ### Classes of commands -/

/-- The commands that may write SELCACHE (R24): the access-port and memory commands and INITIALIZE. -/
def usesSelection : Instr → Bool
  | .apSelect _ _ => true
  | .apWrite _ _ _ => true
  | .apRead _ _ => true
  | .memStore _ _ => true
  | .memLoad _ => true
  | .memStoreN _ _ _ => true
  | .memLoadN _ _ => true
  | .linkInit _ _ _ => true
  | _ => false

/-- The commands that always make at least one transaction (layers 2 to 4, but AP_SELECT on a cache hit). -/
def makesTransaction : Instr → Bool
  | .dpWrite _ _ _ => true
  | .dpRead _ _ => true
  | .reqDpWrite _ _ _ => true
  | .reqDpRead _ _ => true
  | .reqApWrite _ _ _ => true
  | .reqApRead _ _ => true
  | .apWrite _ _ _ => true
  | .apRead _ _ => true
  | .memStore _ _ => true
  | .memLoad _ => true
  | .memStoreN _ _ _ => true
  | .memLoadN _ _ => true
  | .linkInit _ _ _ => true
  | _ => false

/-- The kinds a command can end with (R261); the request rows as the transactions they are (log 2). -/
def mayEndWith : Instr → ErrorKind → Bool
  | .linkInit _ _ _, _ => true
  | .dpWrite _ _ _, e => e == .protocolFault || e == .protocolError || e == .waitTimeout
  | .reqDpWrite _ _ _, e => e == .protocolFault || e == .protocolError || e == .waitTimeout
  | .reqApWrite _ _ _, e => e == .protocolFault || e == .protocolError || e == .waitTimeout
  | .apSelect _ _, e => e == .protocolFault || e == .protocolError || e == .waitTimeout
  | .apWrite _ _ _, e => e == .protocolFault || e == .protocolError || e == .waitTimeout
  | .memStore _ _, e => e == .protocolFault || e == .protocolError || e == .waitTimeout
  | .memStoreN _ _ _, e => e == .protocolFault || e == .protocolError || e == .waitTimeout
  | .dpRead _ _, e => e == .protocolFault || e == .protocolError || e == .waitTimeout || e == .parityError
  | .reqDpRead _ _, e => e == .protocolFault || e == .protocolError || e == .waitTimeout || e == .parityError
  | .reqApRead _ _, e => e == .protocolFault || e == .protocolError || e == .waitTimeout || e == .parityError
  | .apRead _ _, e => e == .protocolFault || e == .protocolError || e == .waitTimeout || e == .parityError
  | .memLoad _, e => e == .protocolFault || e == .protocolError || e == .waitTimeout || e == .parityError
  | .memLoadN _ _, e => e == .protocolFault || e == .protocolError || e == .waitTimeout || e == .parityError
  | _, _ => false

end Sys2Proof.Machine
end

