-- ==== Sys2Proof/Certificates/Slice0/Obligations.lean ====
section
/-! DEFINITION. The statements for the provers. Numbers R are rules of spec/; "log n" is notes/assumptions/n.md. The
target's answers are `State.shows` (log 4): a statement holds for every sequence of answers its hypotheses describe. -/

open Sys2Proof Sys2Proof.Machine

/-! ### Encodings -/

/-- Decoding the encoding of a well-formed operation gives it back, for every operand (the record is R90's; how requests
and the sequence are presented is the model's choice, log 2, log 3, log 22). -/
def Obligations.DecodeOfEncode : Prop :=
  ∀ i : Instr, i.wellFormed = true → decode (encode i) = .ok i

/-- Words written out from R92 and R97 decode to what they stand for. That a table word is a command code below 32 and a
header above, with every operand port 0, is the model's choice (log 15; headers as presentations: log 2). -/
def Obligations.WordsDecode : Prop :=
  decodeTableWord 8 0x01 = some (.writeBits 0 0) ∧ decodeTableWord 8 0x06 = some (.dpRead 0 false) ∧
  decodeTableWord 8 0x09 = some (.apRead 0 0) ∧ decodeTableWord 8 0x0A = some (.linkInit 0 0 0) ∧
  decodeTableWord 8 0x0D = some (.memStoreN 0 0 []) ∧ decodeTableWord 8 0xA5 = some (.reqDpRead false false) ∧
  decodeTableWord 8 0xBB = some (.reqApWrite true true 0) ∧ decodeTableWord 8 0x12 = none ∧
  decodeTableWord 8 0xC1 = none

/-- A header `packHeader` builds decodes to the request it was built for: class, and address bits 3 and 2 (R95, R98). -/
def Obligations.BuiltHeaderDecodes : Prop :=
  ∀ (addr : Word) (apndp rnw : Bool) (data : Word),
    decode (.request (packHeader addr apndp rnw) data) = .ok
      (match apndp, rnw with
        | false, false => .reqDpWrite (addr.getLsbD 3) (addr.getLsbD 2) data
        | false, true => .reqDpRead (addr.getLsbD 3) (addr.getLsbD 2)
        | true, false => .reqApWrite (addr.getLsbD 3) (addr.getLsbD 2) data
        | true, true => .reqApRead (addr.getLsbD 3) (addr.getLsbD 2))

/-- The complete header table of R97, line by line: APnDP, RnW and `addr & 0xC`, then the header, its wire order (first bit
left) and its parity bit. The 16 headers are distinct, and other address bits do not matter. -/
def Obligations.HeaderTable : Prop :=
  let table : List ((Bool × Bool × Word) × BitVec 8 × BitVec 8 × Bool) := [
    ((false, false, 0x0), 0x81, 0b10000001, false), ((false, false, 0x4), 0xA9, 0b10010101, true),
    ((false, false, 0x8), 0xB1, 0b10001101, true), ((false, false, 0xC), 0x99, 0b10011001, false),
    ((false, true, 0x0), 0xA5, 0b10100101, true), ((false, true, 0x4), 0x8D, 0b10110001, false),
    ((false, true, 0x8), 0x95, 0b10101001, false), ((false, true, 0xC), 0xBD, 0b10111101, true),
    ((true, false, 0x0), 0xA3, 0b11000101, true), ((true, false, 0x4), 0x8B, 0b11010001, false),
    ((true, false, 0x8), 0x93, 0b11001001, false), ((true, false, 0xC), 0xBB, 0b11011101, true),
    ((true, true, 0x0), 0x87, 0b11100001, false), ((true, true, 0x4), 0xAF, 0b11110101, true),
    ((true, true, 0x8), 0xB7, 0b11101101, true), ((true, true, 0xC), 0x9F, 0b11111001, false)]
  (∀ r ∈ table, packHeader r.1.2.2 r.1.1 r.1.2.1 = r.2.1 ∧ r.2.1.reverse = r.2.2.1 ∧ r.2.1.getLsbD 5 = r.2.2.2) ∧
  (table.map Prod.fst).Nodup ∧ (table.map fun r => r.2.1).Nodup ∧ table.length = 16 ∧
  (∀ (addr : Word) (apndp rnw : Bool), packHeader addr apndp rnw = packHeader (addr &&& 0xC) apndp rnw)

/-- PACK_HEADER completes in every state with the byte of R162, zero-extended, every bit of it given, and changes nothing
but the result port. -/
def Obligations.PackHeaderResult : Prop :=
  ∀ (s : State) (addr : Word) (apndp rnw : Bool), ∃ h : BitVec 8,
    exec (.packHeader addr apndp rnw) s = .next { s with result := ⟨true, 0, h.setWidth 32⟩ } ∧
    h.getLsbD 0 = true ∧ h.getLsbD 1 = apndp ∧ h.getLsbD 2 = rnw ∧ h.getLsbD 3 = addr.getLsbD 2 ∧
    h.getLsbD 4 = addr.getLsbD 3 ∧
    h.getLsbD 5 = (((apndp ^^ rnw) ^^ addr.getLsbD 2) ^^ addr.getLsbD 3) ∧
    h.getLsbD 6 = false ∧ h.getLsbD 7 = true

/-- EVEN_PARITY completes in every state: 1 exactly when the word has an odd number of ones, zero-extended; nothing but
the result port changes (R160, R161). -/
def Obligations.EvenParityResult : Prop :=
  ∀ (s : State) (w : Word),
    exec (.evenParity w) s = .next { s with result :=
      ⟨true, 0, if ((List.range 32).countP fun i => w.getLsbD i) % 2 = 1 then 1 else 0⟩ }

/-- Even parity is linear, and flipping any one bit flips it (R160's corner cases). -/
def Obligations.EvenParityLinear : Prop :=
  (∀ w v : Word, evenParity (w ^^^ v) = (evenParity w ^^ evenParity v)) ∧
  (∀ (w : Word) (i : Nat), i < 32 → evenParity (w ^^^ (1 <<< i)) = !evenParity w)

/-- The SELECT value of R200, field by field; two addresses on one port share it exactly when their banks are equal. -/
def Obligations.SelectValueFields : Prop :=
  ∀ (port : BitVec 8) (addr addr' : Word),
    (selectValue port addr).extractLsb' 24 8 = port ∧ (selectValue port addr).extractLsb' 8 16 = 0 ∧
    (selectValue port addr).extractLsb' 4 4 = addr.extractLsb' 4 4 ∧ (selectValue port addr).extractLsb' 0 4 = 0 ∧
    (selectValue port addr = selectValue port addr' ↔ addr.extractLsb' 4 4 = addr'.extractLsb' 4 4)

/-- No SELECT value is the sentinel, so with the sentinel cached AP_SELECT always sends a SELECT write, whatever the
target answers: it ends as DP_WRITE of the SELECT value to SELECT (address 0x8, header 0xB1) does, at least one attempt,
and the cache takes the value if that write succeeded (R24, R25, R201; the sentinel is the spec's decision D8, SELECT's
address D9). -/
def Obligations.SentinelForcesSelect : Prop :=
  (∀ (port : BitVec 8) (addr : Word), selectValue port addr ≠ Config.params.selcacheInvalid) ∧
  packHeader 0x8 false false = 0xB1 ∧
  (∀ (s : State) (port : BitVec 8) (addr : Word), s.pinsReady = true → port.toNat < Config.params.numPorts →
    s.selcache = Config.params.selcacheInvalid → ∃ u,
      exec (.dpWrite 0x8 false (selectValue port addr)) s = .next u ∧ 21 ≤ pulsesSince s u ∧
      exec (.apSelect port addr) s =
        .next (if u.result.ok then { u with selcache := selectValue port addr } else u))

/-! ### The wire layer -/

/-- WRITE_BITS completes for every legal count: per bit, bit 0 first, the data level and then one pulse low and high
(R134); an observer sees the bits while the core drives and none while it does not (R132). The pulse's form and the
clock's rest at 1 are the spec's decision D5, the range of the count D18. -/
def Obligations.WriteBitsDrives : Prop :=
  ∀ (s : State) (v : Word) (n : BitVec 6), s.pinsReady = true → n.toNat ≤ 32 →
    Completes (.writeBits v n) s fun t =>
      t.Succeeded ∧ SameButWire s t ∧ t.targetScript = s.targetScript ∧ t.errorEvents = s.errorEvents ∧
      t.gpio = s.gpio ++ (List.range n.toNat).flatMap (fun i =>
        [.setLevel .dio s.dioPin (v.getLsbD i), .setLevel .clk s.clkPin false, .setLevel .clk s.clkPin true]) ∧
      t.dioMode = s.dioMode ∧ t.dioLatch = (if n.toNat = 0 then s.dioLatch else v.getLsbD (n.toNat - 1)) ∧
      t.clkLevel = (if n.toNat = 0 then s.clkLevel else true) ∧ pulsesSince s t = n.toNat ∧
      bitsSince s t = (List.range n.toNat).map (fun i => if s.dioMode = .outPP then some (v.getLsbD i) else none)

/-- READ_BITS with the line released completes for every legal count: per bit, one sample and then one pulse; bit `i` of
the word is sample `i`, 1 where the target drives nothing, and 0 above the count (R44, R135; sample before pulse is the
spec's decision D5, the answers' form log 4). -/
def Obligations.ReadBitsSamples : Prop :=
  ∀ (s : State) (n : BitVec 6), s.pinsReady = true → n.toNat ≤ 32 → s.dioMode = .inPU →
    Completes (.readBits n) s fun t =>
      t.Succeeded ∧ SameButWire s t ∧ t.errorEvents = s.errorEvents ∧
      (∀ i, t.result.rdata.getLsbD i = (decide (i < n.toNat) && ((s.targetScript.getD i none).getD true))) ∧
      t.targetScript = s.targetScript.drop n.toNat ∧
      t.gpio = s.gpio ++ (List.range n.toNat).flatMap (fun i =>
        [.readLevel .dio s.dioPin ((s.targetScript.getD i none).getD true), .setLevel .clk s.clkPin false,
          .setLevel .clk s.clkPin true]) ∧
      t.dioMode = s.dioMode ∧ t.dioLatch = s.dioLatch ∧ t.clkLevel = (if n.toNat = 0 then s.clkLevel else true) ∧
      pulsesSince s t = n.toNat

/-- READ_BITS while the core drives the line reads DIO_LATCH on every sample and uses up no answer (R44, U4; the model's
choice, log 5). -/
def Obligations.ReadBitsWhileDriving : Prop :=
  ∀ (s : State) (n : BitVec 6), s.pinsReady = true → n.toNat ≤ 32 → s.dioMode = .outPP →
    Completes (.readBits n) s fun t =>
      t.Succeeded ∧ SameButWire s t ∧ (∀ i, t.result.rdata.getLsbD i = (decide (i < n.toNat) && s.dioLatch)) ∧
      t.targetScript = s.targetScript ∧ t.dioMode = s.dioMode ∧ t.dioLatch = s.dioLatch ∧ pulsesSince s t = n.toNat

/-- The turnarounds complete, each with one pulse: READ_TURNAROUND releases the line before it, WRITE_TURNAROUND takes
the line after it (R136, R137; the order is the spec's decision D6). -/
def Obligations.TurnaroundsHandOver : Prop :=
  ∀ s : State, s.pinsReady = true →
    (Completes .readTurnaround s fun t =>
      t.Succeeded ∧ SameButWire s t ∧ t.targetScript = s.targetScript ∧ t.errorEvents = s.errorEvents ∧
      t.gpio = s.gpio ++ [.setMode .dio s.dioPin .inPU, .setLevel .clk s.clkPin false, .setLevel .clk s.clkPin true] ∧
      t.dioMode = .inPU ∧ t.clkLevel = true ∧ t.dioLatch = s.dioLatch ∧ pulsesSince s t = 1 ∧
      bitsSince s t = [none]) ∧
    (Completes .writeTurnaround s fun t =>
      t.Succeeded ∧ SameButWire s t ∧ t.targetScript = s.targetScript ∧ t.errorEvents = s.errorEvents ∧
      t.gpio = s.gpio ++ [.setLevel .clk s.clkPin false, .setLevel .clk s.clkPin true, .setMode .dio s.dioPin .outPP] ∧
      t.dioMode = .outPP ∧ t.clkLevel = true ∧ t.dioLatch = s.dioLatch ∧ pulsesSince s t = 1 ∧
      (s.dioMode = .inPU → bitsSince s t = [none]))

/-! ### DP transactions and requests -/

/-- DP_WRITE succeeds when the target answers OK within ten attempts (R168, R169, R178). -/
def Obligations.DpWriteSucceeds : Prop :=
  ∀ (addr : Word) (apndp : Bool) (data : Word),
    WriteSucceeds (.dpWrite addr apndp data) (packHeader addr apndp false) data

/-- DP_READ succeeds when the target answers OK with consistent parity within ten attempts (R173, R174, R178). -/
def Obligations.DpReadSucceeds : Prop :=
  ∀ (addr : Word) (apndp : Bool), ReadSucceeds (.dpRead addr apndp) (packHeader addr apndp true)

/-- REQ_DP_WRITE and REQ_AP_WRITE are write transactions with a header of their class, `10pba001` and `10pba011`
(R98; that they run the transaction is the model's choice, log 2). -/
def Obligations.RequestWritesSucceed : Prop :=
  ∀ (a3 a2 : Bool) (data : Word),
    WriteSucceeds (.reqDpWrite a3 a2 data)
      (0x81#8 ||| ((BitVec.ofBool a2).setWidth 8 <<< 3) ||| ((BitVec.ofBool a3).setWidth 8 <<< 4)
        ||| ((BitVec.ofBool (a2 ^^ a3)).setWidth 8 <<< 5)) data ∧
    WriteSucceeds (.reqApWrite a3 a2 data)
      (0x83#8 ||| ((BitVec.ofBool a2).setWidth 8 <<< 3) ||| ((BitVec.ofBool a3).setWidth 8 <<< 4)
        ||| ((BitVec.ofBool (!(a2 ^^ a3))).setWidth 8 <<< 5)) data

/-- REQ_DP_READ and REQ_AP_READ are read transactions with a header of their class, `10pba101` and `10pba111` (R98;
log 2). -/
def Obligations.RequestReadsSucceed : Prop :=
  ∀ a3 a2 : Bool,
    ReadSucceeds (.reqDpRead a3 a2)
      (0x85#8 ||| ((BitVec.ofBool a2).setWidth 8 <<< 3) ||| ((BitVec.ofBool a3).setWidth 8 <<< 4)
        ||| ((BitVec.ofBool (!(a2 ^^ a3))).setWidth 8 <<< 5)) ∧
    ReadSucceeds (.reqApRead a3 a2)
      (0x87#8 ||| ((BitVec.ofBool a2).setWidth 8 <<< 3) ||| ((BitVec.ofBool a3).setWidth 8 <<< 4)
        ||| ((BitVec.ofBool (a2 ^^ a3)).setWidth 8 <<< 5))

/-- Each request row does what DP_WRITE or DP_READ of its register does, on success and on every failure (the model's
choice, log 2). -/
def Obligations.RequestsAreTransactions : Prop :=
  ∀ (s : State) (a3 a2 : Bool) (data : Word),
    exec (.reqDpWrite a3 a2 data) s = exec (.dpWrite (registerAddress a3 a2) false data) s ∧
    exec (.reqApWrite a3 a2 data) s = exec (.dpWrite (registerAddress a3 a2) true data) s ∧
    exec (.reqDpRead a3 a2) s = exec (.dpRead (registerAddress a3 a2) false) s ∧
    exec (.reqApRead a3 a2) s = exec (.dpRead (registerAddress a3 a2) true) s

/-- The four request rows fail by their acknowledge: FAULT, any other value, ten WAITs (R170 to R172, R175 to R178; that
they run a transaction is the model's choice, log 2). -/
def Obligations.RequestsFail : Prop :=
  ∀ (a3 a2 : Bool) (data : Word),
    AcknowledgeFailures (.reqDpWrite a3 a2 data)
      (0x81#8 ||| ((BitVec.ofBool a2).setWidth 8 <<< 3) ||| ((BitVec.ofBool a3).setWidth 8 <<< 4)
        ||| ((BitVec.ofBool (a2 ^^ a3)).setWidth 8 <<< 5)) ⟨registerAddress a3 a2, false, .write data⟩ ∧
    AcknowledgeFailures (.reqApWrite a3 a2 data)
      (0x83#8 ||| ((BitVec.ofBool a2).setWidth 8 <<< 3) ||| ((BitVec.ofBool a3).setWidth 8 <<< 4)
        ||| ((BitVec.ofBool (!(a2 ^^ a3))).setWidth 8 <<< 5)) ⟨registerAddress a3 a2, true, .write data⟩ ∧
    AcknowledgeFailures (.reqDpRead a3 a2)
      (0x85#8 ||| ((BitVec.ofBool a2).setWidth 8 <<< 3) ||| ((BitVec.ofBool a3).setWidth 8 <<< 4)
        ||| ((BitVec.ofBool (!(a2 ^^ a3))).setWidth 8 <<< 5)) ⟨registerAddress a3 a2, false, .read⟩ ∧
    AcknowledgeFailures (.reqApRead a3 a2)
      (0x87#8 ||| ((BitVec.ofBool a2).setWidth 8 <<< 3) ||| ((BitVec.ofBool a3).setWidth 8 <<< 4)
        ||| ((BitVec.ofBool (a2 ^^ a3)).setWidth 8 <<< 5)) ⟨registerAddress a3 a2, true, .read⟩

/-- DP_WRITE fails by its acknowledge: FAULT, any other value, ten WAITs (R170 to R172, R178). -/
def Obligations.DpWriteFails : Prop :=
  ∀ (addr : Word) (apndp : Bool) (data : Word),
    AcknowledgeFailures (.dpWrite addr apndp data) (packHeader addr apndp false) ⟨addr, apndp, .write data⟩

/-- DP_READ fails by its acknowledge: FAULT, any other value, ten WAITs (R175 to R178). -/
def Obligations.DpReadFails : Prop :=
  ∀ (addr : Word) (apndp : Bool),
    AcknowledgeFailures (.dpRead addr apndp) (packHeader addr apndp true) ⟨addr, apndp, .read⟩

/-- A read answered OK, after any number of WAITs within the budget: if the parity bit agrees it succeeds and returns the
word; if not it fails with ParityError and one error-level diagnostic with the address and APnDP, and is not retried; the
core's actions on the lines are the same, pulse for pulse, and end with the write-turnaround and the drain; the report comes
after them (R174; the place of a report among the actions as log 21 keeps it). -/
def Obligations.ParityFailureSameWire : Prop :=
  ∀ (s : State) (addr : Word) (apndp : Bool) (k : Nat) (w : Word) (rest : List (Option Bool)), s.pinsReady = true →
    k < Config.params.waitAttempts → ∃ t u : State,
      exec (.dpRead addr apndp) { s with targetScript := (readAnswer k w).map some ++ rest } = .next t ∧
      exec (.dpRead addr apndp) { s with targetScript := (readAnswerWith k w (!evenParity w)).map some ++ rest }
        = .next u ∧
      t.Succeeded ∧ t.result.rdata = w ∧ t.errorEvents = s.errorEvents ∧
      u.FailedWith .parityError ∧ u.errorEvents = s.errorEvents ++ [⟨.error, .failure (.parityError addr apndp)⟩] ∧
      (actionsSince s t).filter isDriving = (actionsSince s u).filter isDriving ∧
      pulsesSince s t = transactionPulses k ∧ pulsesSince s u = transactionPulses k ∧
      t.targetScript = rest ∧ u.targetScript = rest ∧
      (∃ es, u.gpio = es ++ [.setMode .dio s.dioPin .outPP] ++ idleActions s) ∧ ReportsLast s u

/-- Whatever the target answers, a DP transaction makes `21k + 54` pulses or `21(k + 1)` with `k` at most 9, so at least
21 and at most 243 (R104, R183, which the spec marks as derived; that the four request rows are such transactions is the
model's choice, log 2). -/
def Obligations.TransactionPulseBounds : Prop :=
  ∀ (i : Instr) (s t : State),
    (match i with
      | .dpWrite _ _ _ | .dpRead _ _ | .reqDpWrite _ _ _ | .reqDpRead _ _ | .reqApWrite _ _ _ | .reqApRead _ _ => True
      | _ => False) →
    exec i s = .next t →
    ∃ k, k < Config.params.waitAttempts ∧ (pulsesSince s t = 21 * k + 54 ∨ pulsesSince s t = 21 * (k + 1))

/-- An observer who decodes the attempt that carried a write's data finds the request it was made for: class, address
bits and data. -/
def Obligations.ObserverDecodesWrite : Prop :=
  ∀ (s : State) (addr : Word) (apndp : Bool) (data : Word) (k : Nat), s.pinsReady = true → s.dioMode = .outPP →
    k < Config.params.waitAttempts → s.shows (writeAnswer k) →
    Completes (.dpWrite addr apndp data) s fun t =>
      let attempt := (bitsSince s t).drop (21 * k)
      decode (.request (observedHeader attempt) (observedData attempt)) = .ok
        (if apndp then .reqApWrite (addr.getLsbD 3) (addr.getLsbD 2) data
          else .reqDpWrite (addr.getLsbD 3) (addr.getLsbD 2) data)

/-- Every command that makes a transaction ends, on success and on every failure path alike, with the line framed and
the drain as its last actions (R74, R166, R264, R314; the write-turnaround on non-OK paths is the spec's decision D7 and
the idle level its decision D4). -/
def Obligations.EveryPathDrains : Prop :=
  ∀ (i : Instr) (s t : State), makesTransaction i = true → exec i s = .next t →
    t.Framed ∧ ∃ es, t.gpio = s.gpio ++ es ++ idleActions t

/-! ### Access ports -/

/-- AP_SELECT: on a cache hit nothing happens on the wire; on a miss answered OK the SELECT write is sent and the cache
updated (R201; SELECT's address and so its header 0xB1 are the spec's decision D9). -/
def Obligations.ApSelectCaches : Prop :=
  ∀ (s : State) (port : BitVec 8) (addr : Word) (k : Nat), s.pinsReady = true →
    port.toNat < Config.params.numPorts → k < Config.params.waitAttempts →
    (selectValue port addr = s.selcache → Completes (.apSelect port addr) s fun t =>
      t.Succeeded ∧ SameButWire s t ∧ SamePins s t ∧ Silent s t) ∧
    (selectValue port addr ≠ s.selcache → s.shows (writeAnswer k) → Completes (.apSelect port addr) s fun t =>
      t.Succeeded ∧ t.Framed ∧ SameLink s t ∧ t.loadBuffer = s.loadBuffer ∧ t.selcache = selectValue port addr ∧
      t.errorEvents = s.errorEvents ∧ t.targetScript = s.targetScript.drop (3 * k + 3) ∧
      pulsesSince s t = transactionPulses k ∧
      (s.dioMode = .outPP → bitsSince s t = writeTransaction 0xB1 (selectValue port addr) k))

/-- A failed SELECT write leaves the cache untouched, ends the command with the write's kind, and pre-empts the access:
AP_WRITE and AP_READ end exactly as AP_SELECT does (R201, R203, R266). -/
def Obligations.FailedSelectKeepsCache : Prop :=
  (∀ (s : State) (port : BitVec 8) (addr : Word) (ls : List Bool) (e : ErrorKind) (n : Nat), s.pinsReady = true →
    port.toNat < Config.params.numPorts → selectValue port addr ≠ s.selcache → AckFailure ls e n → s.shows ls →
    Completes (.apSelect port addr) s fun t =>
      t.FailedWith e ∧ SameButWire s t ∧ t.Framed ∧ pulsesSince s t = n ∧
      (s.dioMode = .outPP → bitsSince s t = failedWrite 0xB1 n)) ∧
  (∀ (s t : State) (port : BitVec 8) (addr data : Word), exec (.apSelect port addr) s = .next t →
    t.result.ok = false →
    exec (.apWrite port addr data) s = .next t ∧ exec (.apRead port addr) s = .next t)

/-- AP_WRITE succeeds when the SELECT write, if one is needed, and the access are answered OK (R203). -/
def Obligations.ApWriteSucceeds : Prop :=
  ∀ (s : State) (port : BitVec 8) (addr data : Word) (j k : Nat), s.pinsReady = true →
    port.toNat < Config.params.numPorts → j < Config.params.waitAttempts → k < Config.params.waitAttempts →
    s.shows (selectLevels s (selectValue port addr) j ++ writeAnswer k) →
    Completes (.apWrite port addr data) s fun t =>
      t.Succeeded ∧ t.Framed ∧ SameLink s t ∧ t.loadBuffer = s.loadBuffer ∧ t.selcache = selectValue port addr ∧
      t.errorEvents = s.errorEvents ∧
      pulsesSince s t = selectPulses s (selectValue port addr) j + transactionPulses k ∧
      (s.dioMode = .outPP → bitsSince s t =
        selectBits s (selectValue port addr) j ++ writeTransaction (packHeader addr true false) data k)

/-- AP_READ succeeds when the SELECT write, if one is needed, and the access are answered OK; its word is the word of
that one read (R204, R206). -/
def Obligations.ApReadSucceeds : Prop :=
  ∀ (s : State) (port : BitVec 8) (addr w : Word) (j k : Nat), s.pinsReady = true →
    port.toNat < Config.params.numPorts → j < Config.params.waitAttempts → k < Config.params.waitAttempts →
    s.shows (selectLevels s (selectValue port addr) j ++ readAnswer k w) →
    Completes (.apRead port addr) s fun t =>
      t.Succeeded ∧ t.result.rdata = w ∧ t.Framed ∧ SameLink s t ∧ t.loadBuffer = s.loadBuffer ∧
      t.selcache = selectValue port addr ∧ t.errorEvents = s.errorEvents ∧
      pulsesSince s t = selectPulses s (selectValue port addr) j + transactionPulses k ∧
      (s.dioMode = .outPP → bitsSince s t =
        selectBits s (selectValue port addr) j ++ readTransaction (packHeader addr true true) k)

/-- After any access-port command SELCACHE is what it was or the SELECT value of that command, the latter if the command
succeeded (R201, R205, R311: no failure invalidates it). -/
def Obligations.SelectionAfterAccess : Prop :=
  ∀ (i : Instr) (port : BitVec 8) (addr : Word) (s t : State),
    (i = .apSelect port addr ∨ (∃ data, i = .apWrite port addr data) ∨ i = .apRead port addr) →
    exec i s = .next t →
    (t.selcache = s.selcache ∨ t.selcache = selectValue port addr) ∧
    (t.result.ok = true → t.selcache = selectValue port addr)

/-- The pseudo-operations are their expansions: MEM_STORE is MEM_STORE_N of one word, MEM_LOAD is MEM_LOAD_N of one word
returning it, AP_WRITE and AP_READ are AP_SELECT followed by DP_WRITE or DP_READ with APnDP = 1 (R94; the result of the
select is not presented in between). -/
def Obligations.PseudoOperationsExpand : Prop :=
  (∀ (s : State) (address word : Word), exec (.memStore address word) s = exec (.memStoreN address 1 [word]) s) ∧
  (∀ (s : State) (address : Word), s.pinsReady = true → ∃ t u : State,
    exec (.memLoad address) s = .next t ∧ exec (.memLoadN address 1) s = .next u ∧
    t.result.ok = u.result.ok ∧ t.result.err = u.result.err ∧
    (t.result.ok = true → u.loadBuffer = [t.result.rdata]) ∧
    t = { u with result := t.result, loadBuffer := s.loadBuffer, freeCount := t.freeCount }) ∧
  (∀ (s t : State) (port : BitVec 8) (addr data : Word), exec (.apSelect port addr) s = .next t →
    t.result.ok = true →
    exec (.apWrite port addr data) s =
      exec (.dpWrite (addr &&& 0xF) true data) { t with result := s.result, freeCount := s.freeCount } ∧
    exec (.apRead port addr) s =
      exec (.dpRead (addr &&& 0xF) true) { t with result := s.result, freeCount := s.freeCount })

/-! ### Memory operations -/

/-- MEM_STORE_N writes TAR once and then DRW once per word, in index order, with no TAR write in between, and succeeds
when every transaction is answered OK; zero words are the TAR write alone (R65, R232; TAR's and DRW's addresses, and so
the headers 0x8B and 0xBB, are the spec's decision D10, the empty transfer its decision D20). -/
def Obligations.StoreSucceeds : Prop :=
  ∀ (s : State) (address count : Word) (j k : Nat) (words : List (Nat × Word)), s.pinsReady = true →
    words.length = count.toNat → j < Config.params.waitAttempts → k < Config.params.waitAttempts →
    (∀ p ∈ words, p.1 < Config.params.waitAttempts) →
    s.shows (selectLevels s 0 j ++ writeAnswer k ++ writeLevels words) →
    Completes (.memStoreN address count (words.map Prod.snd)) s fun t =>
      t.Succeeded ∧ t.Framed ∧ SameLink s t ∧ t.loadBuffer = s.loadBuffer ∧ t.selcache = 0 ∧
      t.errorEvents = s.errorEvents ∧
      pulsesSince s t = selectPulses s 0 j + transactionPulses k + totalPulses words ∧
      (s.dioMode = .outPP → bitsSince s t = selectBits s 0 j ++ writeTransaction 0x8B address k
        ++ words.flatMap fun p => writeTransaction 0xBB p.2 p.1)

/-- MEM_LOAD_N writes TAR once and then reads DRW once per word, and succeeds with the words read in the host's buffer
when every transaction is answered OK (R65, R233; D10, D20 as above). -/
def Obligations.LoadSucceeds : Prop :=
  ∀ (s : State) (address count : Word) (j k : Nat) (words : List (Nat × Word)), s.pinsReady = true →
    words.length = count.toNat → j < Config.params.waitAttempts → k < Config.params.waitAttempts →
    (∀ p ∈ words, p.1 < Config.params.waitAttempts) →
    s.shows (selectLevels s 0 j ++ writeAnswer k ++ readLevels words) →
    Completes (.memLoadN address count) s fun t =>
      t.Succeeded ∧ t.loadBuffer = words.map Prod.snd ∧ t.Framed ∧ SameLink s t ∧ t.selcache = 0 ∧
      t.errorEvents = s.errorEvents ∧
      pulsesSince s t = selectPulses s 0 j + transactionPulses k + totalPulses words ∧
      (s.dioMode = .outPP → bitsSince s t = selectBits s 0 j ++ writeTransaction 0x8B address k
        ++ words.flatMap fun p => readTransaction 0x9F p.1)

/-- MEM_STORE and MEM_LOAD succeed when their transactions are answered OK; MEM_LOAD returns the word of its DRW read
(R230, R231; D10). -/
def Obligations.SingleWordSucceeds : Prop :=
  ∀ (s : State) (address word : Word) (j k l : Nat), s.pinsReady = true → j < Config.params.waitAttempts →
    k < Config.params.waitAttempts → l < Config.params.waitAttempts →
    (s.shows (selectLevels s 0 j ++ writeAnswer k ++ writeAnswer l) → Completes (.memStore address word) s fun t =>
      t.Succeeded ∧ t.Framed ∧ SameLink s t ∧ SameHost s t ∧ t.selcache = 0 ∧ t.errorEvents = s.errorEvents ∧
      pulsesSince s t = selectPulses s 0 j + transactionPulses k + transactionPulses l) ∧
    (s.shows (selectLevels s 0 j ++ writeAnswer k ++ readAnswer l word) → Completes (.memLoad address) s fun t =>
      t.Succeeded ∧ t.result.rdata = word ∧ t.Framed ∧ SameLink s t ∧ SameHost s t ∧ t.selcache = 0 ∧
      t.errorEvents = s.errorEvents ∧
      pulsesSince s t = selectPulses s 0 j + transactionPulses k + transactionPulses l)

/-- The first failing word aborts a MEM_STORE_N: the words before it were written, it was attempted, none after it was,
as an observer sees, and the command fails with that transaction's kind (R234, R266; TAR's and DRW's addresses are the
spec's decision D10). -/
def Obligations.StoreAborts : Prop :=
  ∀ (s : State) (address count : Word) (j k : Nat) (done : List (Nat × Word)) (word : Word) (later : List Word)
    (ls : List Bool) (e : ErrorKind) (n : Nat), s.pinsReady = true → (done.length + 1 + later.length) = count.toNat →
    j < Config.params.waitAttempts → k < Config.params.waitAttempts →
    (∀ p ∈ done, p.1 < Config.params.waitAttempts) → AckFailure ls e n →
    s.shows (selectLevels s 0 j ++ writeAnswer k ++ writeLevels done ++ ls) →
    Completes (.memStoreN address count (done.map Prod.snd ++ word :: later)) s fun t =>
      t.FailedWith e ∧ t.Framed ∧ SameLink s t ∧ t.loadBuffer = s.loadBuffer ∧ t.selcache = 0 ∧
      pulsesSince s t = selectPulses s 0 j + transactionPulses k + totalPulses done + n ∧
      (s.dioMode = .outPP → bitsSince s t = selectBits s 0 j ++ writeTransaction 0x8B address k
        ++ (done.flatMap fun p => writeTransaction 0xBB p.2 p.1) ++ failedWrite 0xBB n)

/-- The first failing word aborts a MEM_LOAD_N with that transaction's kind; what the buffer holds is left open, but it
is `count` words (R234, U9; log 10; TAR's and DRW's addresses are the spec's decision D10). -/
def Obligations.LoadAborts : Prop :=
  ∀ (s : State) (address count : Word) (j k : Nat) (done : List (Nat × Word)) (ls : List Bool) (e : ErrorKind) (n : Nat),
    s.pinsReady = true → done.length < count.toNat → j < Config.params.waitAttempts →
    k < Config.params.waitAttempts → (∀ p ∈ done, p.1 < Config.params.waitAttempts) → ReadFailure ls e n →
    s.shows (selectLevels s 0 j ++ writeAnswer k ++ readLevels done ++ ls) →
    Completes (.memLoadN address count) s fun t =>
      t.FailedWith e ∧ t.Framed ∧ SameLink s t ∧ t.loadBuffer.length = count.toNat ∧ t.selcache = 0 ∧
      pulsesSince s t = selectPulses s 0 j + transactionPulses k + totalPulses done + n ∧
      (s.dioMode = .outPP → bitsSince s t = selectBits s 0 j ++ writeTransaction 0x8B address k
        ++ (done.flatMap fun p => readTransaction 0x9F p.1) ++ failedRead 0x9F e n)

/-- A failing SELECT or TAR write ends a memory command with no DRW access: the command ends as the AP_WRITE of TAR does,
in kind, on the wire and in all else; after MEM_LOAD_N what the host's buffer of `count` words holds is left open, and so is
the invalid `rdata` (R234, R266, U9; log 9, log 10; TAR's address is the spec's decision D10). -/
def Obligations.FailedTarPreempts : Prop :=
  ∀ (s t : State) (address : Word), exec (.apWrite 0 0x04 address) s = .next t → t.result.ok = false →
    (∀ word, exec (.memStore address word) s = .next t) ∧ exec (.memLoad address) s = .next t ∧
    (∀ (count : Word) (buffer : List Word), buffer.length = count.toNat →
      exec (.memStoreN address count buffer) s = .next t) ∧
    (∀ count : Word, Completes (.memLoadN address count) s fun u =>
      u.result.ok = false ∧ u.result.err = t.result.err ∧ u.loadBuffer.length = count.toNat ∧
      u = { t with result := u.result, loadBuffer := u.loadBuffer, freeCount := u.freeCount })

/-! ### Link initialization -/

/-- INITIALIZE succeeds on every sequence of answers that passes its checks, and leaves the link ready (R220 to R229,
R304; the figures rest on the decisions those rules name, and the bit counts on log 7). -/
def Obligations.InitializeSucceeds : Prop :=
  ∀ (s : State) (clk dio : PinId) (v : BitVec 2) (l : Level) (ls : List Bool) (n : Nat) (idcode : Word) (j k : Nat),
    levelOf Config.params v = some l → TypeChecked ls n idcode → j < Config.params.waitAttempts → k < Config.params.waitAttempts →
    s.shows (ls ++ writeAnswer j ++ writeAnswer k) →
    Completes (.linkInit clk dio v) s fun t =>
      t.Succeeded ∧ t.linkReady = true ∧ t.pinsReady = true ∧ t.selcache = 0 ∧ t.clkPin = clk ∧ t.dioPin = dio ∧
      t.verbosity = l ∧ t.Framed ∧ SameHost s t ∧ t.errorEvents = s.errorEvents ∧
      t.milestones = s.milestones ++ (if Level.normal.passes l then [⟨.normal, .foundArmProcessor idcode⟩] else []) ∧
      pulsesSince s t = bringupPulses + n + transactionPulses j + transactionPulses k

/-- What an observer sees of an INITIALIZE whose first poll already shows both acknowledge bits: the sequence and seven
transactions, in this order, each with its own WAITs (R221 to R227, R229; the headers rest on the decisions D9 to D11,
CSW's value and the bit counts on log 7). Where the clock latch was low before the command, as it may be after power-on,
step 1 raises it (D14): that one rise, with the line as it was then, comes first. -/
def Obligations.InitializeTransactions : Prop :=
  ∀ (s : State) (clk dio : PinId) (v : BitVec 2) (l : Level) (idcode ctrl idr : Word) (k1 k2 k3 k4 k5 k6 k7 : Nat),
    levelOf Config.params v = some l → idcodeRecognized Config.params idcode = true →
    powerUpAcknowledged Config.params ctrl = true → isMemoryPort Config.params idr = true →
    (∀ k ∈ [k1, k2, k3, k4, k5, k6, k7], k < Config.params.waitAttempts) →
    s.shows (readAnswer k1 idcode ++ writeAnswer k2 ++ readAnswer k3 ctrl ++ writeAnswer k4 ++ readAnswer k5 idr
      ++ writeAnswer k6 ++ writeAnswer k7) →
    Completes (.linkInit clk dio v) s fun t =>
      t.Succeeded ∧ bitsSince s t =
        (if s.clkLevel then [] else [if s.dioMode = .outPP then some s.dioLatch else none])
        ++ (bringupBits Config.params).map some ++ readTransaction 0xA5 k1
        ++ writeTransaction 0xA9 0x50000000 k2 ++ readTransaction 0x8D k3 ++ writeTransaction 0xB1 0x000000F0 k4
        ++ readTransaction 0x9F k5 ++ writeTransaction 0xB1 0x00000000 k6
        ++ writeTransaction 0xA3 Config.params.cswDefault k7

/-- INITIALIZE fails on every sequence of answers that fails one of its steps, with the kind of the first failing step;
LINK_READY is 0 and the cache is as the steps left it (R220, R223 to R228, R264; decisions as above). -/
def Obligations.InitializeFails : Prop :=
  ∀ (s : State) (clk dio : PinId) (v : BitVec 2) (l : Level) (ls : List Bool) (e : ErrorKind) (sel : Word) (n : Nat),
    levelOf Config.params v = some l → InitFailure ls e sel n → s.shows ls →
    Completes (.linkInit clk dio v) s fun t =>
      t.FailedWith e ∧ t.linkReady = false ∧ t.pinsReady = true ∧ t.selcache = sel ∧ t.clkPin = clk ∧
      t.dioPin = dio ∧ t.verbosity = l ∧ t.Framed ∧ SameHost s t ∧ pulsesSince s t = bringupPulses + n

/-- When the IDCODE read fails, whatever its kind, INITIALIZE reports NoDeviceDetected, after the transaction's own
diagnostic, and adds one error-level diagnostic of its own that carries the kind (R223). -/
def Obligations.NoDeviceRelabels : Prop :=
  ∀ (s : State) (clk dio : PinId) (v : BitVec 2) (l : Level) (ls : List Bool) (e : ErrorKind) (n : Nat),
    levelOf Config.params v = some l → ReadFailure ls e n → s.shows ls →
    Completes (.linkInit clk dio v) s fun t =>
      t.FailedWith .noDeviceDetected ∧ ∃ f : Failure, f.kind = e ∧
        t.errorEvents = s.errorEvents ++ [⟨.error, .failure f⟩, ⟨.error, .failure (.noDeviceDetected e)⟩]

/-- LINK_READY after an INITIALIZE says whether it succeeded (R228). -/
def Obligations.ReadyIffInitialized : Prop :=
  ∀ (s t : State) (clk dio : PinId) (v : BitVec 2), exec (.linkInit clk dio v) s = .next t →
    t.linkReady = t.result.ok

/-- INITIALIZE starts again from step 1 whatever state the link was in: the link's old state does not show in what it
does (R220). -/
def Obligations.InitializeForgetsLink : Prop :=
  ∀ (s : State) (clk dio : PinId) (v : BitVec 2) (c d : PinId) (lv : Level) (sel : Word) (lr pr cl la : Bool)
    (m : DriveMode),
    exec (.linkInit clk dio v)
      { s with
        clkPin := c
        dioPin := d
        verbosity := lv
        selcache := sel
        linkReady := lr
        pinsReady := pr
        clkLevel := cl
        dioLatch := la
        dioMode := m } = exec (.linkInit clk dio v) s

/-- BRINGUP_SEQ completes: the sequence of R105 and no other bit, with the core driving, nothing read (R222; that it can
be asked for by itself is the model's choice, log 3; its bit counts are log 7). -/
def Obligations.BringupSends : Prop :=
  ∀ s : State, s.pinsReady = true →
    Completes .bringupSeq s fun t =>
      t.Succeeded ∧ SameButWire s t ∧ t.targetScript = s.targetScript ∧ t.errorEvents = s.errorEvents ∧
      t.dioMode = s.dioMode ∧ t.dioLatch = false ∧ t.clkLevel = true ∧ pulsesSince s t = bringupPulses ∧
      (s.dioMode = .outPP → bitsSince s t = (bringupBits Config.params).map some)

/-- SET_VERBOSITY completes for the three levels, before an INITIALIZE too, and changes the threshold alone (R236; the
encoding is the spec's decision D21). -/
def Obligations.SetVerbositySets : Prop :=
  ∀ (s : State) (level : BitVec 2), level.toNat ≤ 2 →
    Completes (.setVerbosity level) s fun t =>
      t.Succeeded ∧ t.verbosity.code Config.params = level ∧ t.clkPin = s.clkPin ∧ t.dioPin = s.dioPin ∧
      t.selcache = s.selcache ∧ t.linkReady = s.linkReady ∧ t.pinsReady = s.pinsReady ∧ SamePins s t ∧ Silent s t ∧
      SameHost s t

/-! ### The whole machine -/

/-- The invariant holds after power-on (R47; the values R47 leaves unspecified are log 6). -/
def Obligations.InvAtReset : Prop :=
  State.reset.Inv

/-- Every step keeps the invariant. -/
def Obligations.StepKeepsInv : Prop :=
  ∀ s t : State, s.Inv → step s = .next t → t.Inv

/-- The diagnostic threshold and the sink never show in anything else: with another threshold and other diagnostics so
far, a command ends alike and leaves the same state but for those two fields (R27, R46, R318). -/
def Obligations.VerbosityNeverInterferes : Prop :=
  ∀ (i : Instr) (s : State) (v : Level) (d : List Emitted),
    match exec i s, exec i { s with verbosity := v, diag := d } with
    | .next t, .next u => u = { t with verbosity := u.verbosity, diag := u.diag }
    | .refused r, .refused r' => r = r'
    | _, _ => False

/-- Only INITIALIZE changes the pin identifiers, LINK_READY and the pins' readiness, and only INITIALIZE and SET_VERBOSITY
the threshold (R26, R27, R29). -/
def Obligations.LinkFrame : Prop :=
  ∀ (i : Instr) (s t : State), exec i s = .next t → (∀ clk dio v, i ≠ .linkInit clk dio v) →
    t.clkPin = s.clkPin ∧ t.dioPin = s.dioPin ∧ t.linkReady = s.linkReady ∧ t.pinsReady = s.pinsReady ∧
    ((∀ l, i ≠ .setVerbosity l) → t.verbosity = s.verbosity)

/-- SELCACHE changes only in the select operation and in INITIALIZE: no other command writes it, and a memory command
leaves it as it was or at the selection of port 0, bank 0 (R24, R77, R232). -/
def Obligations.SelectionFrame : Prop :=
  ∀ (i : Instr) (s t : State), exec i s = .next t →
    (usesSelection i = false → t.selcache = s.selcache) ∧
    ((match i with
      | .memStore _ _ | .memLoad _ | .memStoreN _ _ _ | .memLoadN _ _ => True
      | _ => False) → t.selcache = s.selcache ∨ t.selcache = 0)

/-- A command takes nothing back: the actions and diagnostics so far stay, the target's answers are used from the front,
the host's presentations are not touched; the load buffer changes only in MEM_LOAD_N; EVEN_PARITY, PACK_HEADER and
SET_VERBOSITY touch neither the wire nor the pins (R73, R92, R233, R236). -/
def Obligations.EnvironmentFrame : Prop :=
  ∀ (i : Instr) (s t : State), exec i s = .next t →
    s.gpio <+: t.gpio ∧ s.diag <+: t.diag ∧ (∃ n, t.targetScript = s.targetScript.drop n) ∧
    t.hostScript = s.hostScript ∧ ((∀ address count, i ≠ .memLoadN address count) → t.loadBuffer = s.loadBuffer) ∧
    (needsPins i = false → (∀ clk dio v, i ≠ .linkInit clk dio v) → Silent s t ∧ SamePins s t)

/-- A command ends in success or in one of the kinds R261 allows it (for the request rows, those of the transaction they
are, log 2). -/
def Obligations.KindsPerCommand : Prop :=
  ∀ (i : Instr) (s t : State), exec i s = .next t →
    t.Succeeded ∨ ∃ e, mayEndWith i e = true ∧ t.FailedWith e

/-- Error-level diagnostics: none on success, one on failure, two when INITIALIZE re-labels the IDCODE read's failure;
the last one carries the kind on the result port (R262, R263; their number is the spec's decision D29). -/
def Obligations.DiagnosticsPerFailure : Prop :=
  ∀ (i : Instr) (s t : State), exec i s = .next t →
    ∃ ds : List Diag, t.errorEvents = s.errorEvents ++ ds ∧
      ds.length = (if t.result.ok then 0 else if t.result.err = ErrorKind.noDeviceDetected.code then 2 else 1) ∧
      (t.result.ok = false → ∃ f : Failure, ds.getLast? = some ⟨.error, .failure f⟩ ∧ f.kind.code = t.result.err)

/-- A failure is reported only after the drain: no GPIO action follows an error-level diagnostic, and if the command fails
the last actions are the 8 idle bits (R166, R174, R262, R263; the place of a report among the actions as log 21 keeps it). -/
def Obligations.ReportsAfterDrain : Prop :=
  ∀ (i : Instr) (s t : State), exec i s = .next t →
    ReportsLast s t ∧ (t.result.ok = false → ∃ es, t.gpio = s.gpio ++ es ++ idleActions t)

/-- Every command with legal operands ends in a next state, whatever the target answers (R180, which the spec marks as
derived; before an INITIALIZE has run its step 1 only the four commands R302 names). That the four request rows and
BRINGUP_SEQ are commands, and wait for the pins, is the model's choice (logs 2, 3, 13). -/
def Obligations.EveryLegalCommandEnds : Prop :=
  ∀ (i : Instr) (s : State), i.wellFormed = true → (needsPins i = true → s.pinsReady = true) →
    ∃ t, exec i s = .next t

/-- Illegal operand values are refused, each by name (R93, R133, R202, R236; the buffer's length is the model's choice,
log 18); level 3 in every state, the others once the pins are configured (before that R302 refuses: RefusedBeforeInitialize;
log 14). -/
def Obligations.IllegalOperandsRefused : Prop :=
  (∀ (s : State) (clk dio : PinId), exec (.linkInit clk dio 3) s = .refused (.noSuchLevel 3) ∧
    exec (.setVerbosity 3) s = .refused (.noSuchLevel 3)) ∧
  (∀ s : State, s.pinsReady = true →
    (∀ (v : Word) (n : BitVec 6), 32 < n.toNat →
      exec (.writeBits v n) s = .refused (.bitCountAbove32 n) ∧ exec (.readBits n) s = .refused (.bitCountAbove32 n)) ∧
    (∀ (port : BitVec 8) (addr data : Word), Config.params.numPorts ≤ port.toNat →
      exec (.apSelect port addr) s = .refused (.noSuchPort port) ∧
      exec (.apWrite port addr data) s = .refused (.noSuchPort port) ∧
      exec (.apRead port addr) s = .refused (.noSuchPort port)) ∧
    (∀ (address count : Word) (buffer : List Word), buffer.length ≠ count.toNat →
      exec (.memStoreN address count buffer) s = .refused .bufferNotCountWords))

/-- Before one INITIALIZE has run its step 1, every command but INITIALIZE, SET_VERBOSITY, EVEN_PARITY and PACK_HEADER is
refused (R302, the spec's decision D22). The model's choices beside it: the refusal is named beforeInitialize also where an
operand is illegal, `n = 33` or `port = 255`, so that R93 refuses too (log 14), and the four request rows and BRINGUP_SEQ,
which R302 does not name and which can be asked for only by logs 2 and 3, are refused as commands that touch the wire
(log 13). -/
def Obligations.RefusedBeforeInitialize : Prop :=
  ∀ (i : Instr) (s : State), needsPins i = true → s.pinsReady = false → exec i s = .refused .beforeInitialize

/-- A step runs the command the host presents next, with that presentation taken off the host's script and nothing else
around it (R40, R42; log 1, log 12). -/
def Obligations.StepRunsPresented : Prop :=
  ∀ (s : State) (p : Presented) (rest : List Presented) (i : Instr), s.hostScript = p :: rest → decode p = .ok i →
    step s = exec i { s with hostScript := rest }

/-- An idle core stays as it is (R301), and a presentation that names no operation is refused, among them the reserved
codes 0x00 and 0x12 to 0x1F (R93). -/
def Obligations.IdleAndUnknown : Prop :=
  (∀ s : State, s.hostScript = [] → step s = .next s) ∧
  (∀ (s : State) (p : Presented) (rest : List Presented) (r : Reject), s.hostScript = p :: rest →
    decode p = .error r → step s = .refused (.unknownOperation r)) ∧
  (∀ r : CmdRecord, r.op = 0 ∨ 0x12 ≤ r.op.toNat → decode (.cmd r) = .error (.reservedCommand r.op))
end

