-- ==== Sys2Proof/Laws/Bits.lean ====
section
/-! SUPPORT. Bits in wire order: lists of bits and the words they make, and the levels a released line shows. -/

namespace Sys2Proof

@[simp] theorem length_lsbBits {w : Nat} (v : BitVec w) (n : Nat) : (lsbBits v n).length = n := by
  simp [lsbBits]

@[simp] theorem lsbBits_zero {w : Nat} (v : BitVec w) : lsbBits v 0 = [] := rfl

theorem isEmpty_lsbBits {w : Nat} (v : BitVec w) (n : Nat) : (lsbBits v n).isEmpty = decide (n = 0) := by
  cases n <;> simp [lsbBits, List.range_succ_eq_map]

theorem getD_lsbBits {w : Nat} (v : BitVec w) (n i : Nat) :
    (lsbBits v n).getD i false = (decide (i < n) && v.getLsbD i) := by
  by_cases h : i < n <;> simp [lsbBits, List.getD, h]

theorem getLastD_lsbBits {w : Nat} (v : BitVec w) (n : Nat) (b : Bool) :
    (lsbBits v n).getLastD b = if n = 0 then b else v.getLsbD (n - 1) := by
  cases n with
  | zero => rfl
  | succ n => simp [lsbBits, List.range_succ, List.getLastD_eq_getLast?]

/-- Bit `i` of an assembled word is the `i`-th bit sampled (R135). -/
theorem getLsbD_wordOfBits (bs : List Bool) (i : Nat) :
    (wordOfBits bs).getLsbD i = (decide (i < 32) && bs.getD i false) := by
  induction bs generalizing i with
  | nil => simp [wordOfBits]
  | cons b bs ih =>
    cases i with
    | zero => simp [wordOfBits]
    | succ i =>
      by_cases h : i + 1 < 32
      · have h' : i < 32 := by omega
        have hb := ih i
        rw [BitVec.getLsbD_eq_getElem h'] at hb
        simp [wordOfBits, hb, h, h']
      · simp [wordOfBits, h]

/-- Assembling the bits of a word gives the word back (R63, R64). -/
@[simp] theorem wordOfBits_lsbBits (w : Word) : wordOfBits (lsbBits w 32) = w := by
  apply BitVec.eq_of_getLsbD_eq
  intro i hi
  rw [getLsbD_wordOfBits, getD_lsbBits]
  simp [hi]

/-- Assembling the low bits of a narrower value gives its zero-extension. -/
theorem wordOfBits_lsbBits_setWidth {w : Nat} (v : BitVec w) (n : Nat) (h : w ≤ n) :
    wordOfBits (lsbBits v n) = v.setWidth 32 := by
  apply BitVec.eq_of_getLsbD_eq
  intro i hi
  rw [getLsbD_wordOfBits, getD_lsbBits]
  by_cases h' : i < n
  · simp [hi, h']
  · simp [hi, h', BitVec.getLsbD_of_ge v i (by omega)]

/-- Any three bits are the bits of a 3-bit value. -/
theorem exists_lsbBits_three (bs : List Bool) (h : bs.length = 3) : ∃ a : BitVec 3, bs = lsbBits a 3 := by
  match bs, h with
  | [x, y, z], _ => revert x y z; decide

/-- Any thirty-two bits are the bits of a word. -/
theorem exists_lsbBits_word (bs : List Bool) (h : bs.length = 32) : ∃ w : Word, bs = lsbBits w 32 := by
  refine ⟨wordOfBits bs, List.ext_getElem (by simp [h]) fun i h1 h2 => ?_⟩
  have hi : i < 32 := by simpa using h2
  have hb := getLsbD_wordOfBits bs i
  rw [BitVec.getLsbD_eq_getElem hi] at hb
  simp [lsbBits, hi, hb, h1]

end Sys2Proof

namespace Sys2Proof.Machine

@[simp] theorem length_targetLevels (n : Nat) (l : List (Option Bool)) : (targetLevels n l).length = n := by
  induction n generalizing l with
  | zero => rfl
  | succ n ih => cases l <;> simp [targetLevels, ih]

/-- Reading `m + n` levels is reading `m` and then `n` more. -/
theorem targetLevels_add (m n : Nat) (l : List (Option Bool)) :
    targetLevels (m + n) l = targetLevels m l ++ targetLevels n (l.drop m) := by
  induction m generalizing l with
  | zero => simp [targetLevels]
  | succ m ih =>
    rw [Nat.add_right_comm]
    cases l <;> simp [targetLevels, ih]

theorem targetLevels_eq_map (n : Nat) (l : List (Option Bool)) :
    targetLevels n l = (List.range n).map fun i => (l.getD i none).getD true := by
  induction n generalizing l with
  | zero => rfl
  | succ n ih =>
    rw [List.range_succ_eq_map]
    cases l <;> simp [targetLevels, ih, Function.comp_def]

/-- A script of driven levels shows those levels (R44). -/
theorem targetLevels_map_some (ls : List Bool) (rest : List (Option Bool)) :
    targetLevels ls.length (ls.map some ++ rest) = ls := by
  induction ls with
  | nil => rfl
  | cons b ls ih => simp [targetLevels, ih]

/-- Showing `a` and then `b`. -/
theorem targetLevels_append_iff (a b : List Bool) (l : List (Option Bool)) :
    targetLevels (a ++ b).length l = a ++ b ↔
      targetLevels a.length l = a ∧ targetLevels b.length (l.drop a.length) = b := by
  rw [List.length_append, targetLevels_add]
  constructor
  · intro h
    exact List.append_inj h (by simp)
  · rintro ⟨h1, h2⟩
    rw [h1, h2]

end Sys2Proof.Machine
end

