-- ==== Sys2Proof/Laws/Params.lean ====
section
/-! SUPPORT. The values of the configuration record (00_scope.md R8), field by field. -/

namespace Sys2Proof

@[simp] theorem params_waitAttempts : Config.params.waitAttempts = 10 := rfl
@[simp] theorem params_powerupPolls : Config.params.powerupPolls = 4 := rfl
@[simp] theorem params_idleBits : Config.params.idleBits = 8 := rfl
@[simp] theorem params_idleLevel : Config.params.idleLevel = false := rfl
@[simp] theorem params_ackBits : Config.params.ackBits = 3 := rfl
@[simp] theorem params_ackOk : Config.params.ackOk = 1 := rfl
@[simp] theorem params_ackWait : Config.params.ackWait = 2 := rfl
@[simp] theorem params_ackFault : Config.params.ackFault = 4 := rfl
@[simp] theorem params_dataBits : Config.params.dataBits = 32 := rfl
@[simp] theorem params_headerBits : Config.params.headerBits = 8 := rfl
@[simp] theorem params_selcacheInvalid : Config.params.selcacheInvalid = 0xFFFFFFFF := rfl
@[simp] theorem params_numPorts : Config.params.numPorts = 4 := rfl
@[simp] theorem params_defaultPort : Config.params.defaultPort = 0 := rfl
@[simp] theorem params_dpIdcode : Config.params.dpIdcode = 0x0 := rfl
@[simp] theorem params_dpCtrlstat : Config.params.dpCtrlstat = 0x4 := rfl
@[simp] theorem params_dpSelect : Config.params.dpSelect = 0x8 := rfl
@[simp] theorem params_apCsw : Config.params.apCsw = 0x00 := rfl
@[simp] theorem params_apTar : Config.params.apTar = 0x04 := rfl
@[simp] theorem params_apDrw : Config.params.apDrw = 0x0C := rfl
@[simp] theorem params_apIdr : Config.params.apIdr = 0xFC := rfl
@[simp] theorem params_idcodeMask : Config.params.idcodeMask = 0x0FF00001 := rfl
@[simp] theorem params_idcodeMatch : Config.params.idcodeMatch = 0x0BA00001 := rfl
@[simp] theorem params_apTypeMask : Config.params.apTypeMask = 0xF := rfl
@[simp] theorem params_apTypeAhb : Config.params.apTypeAhb = 1 := rfl
@[simp] theorem params_pwrupReq : Config.params.pwrupReq = 0x50000000 := rfl
@[simp] theorem params_pwrupAckMask : Config.params.pwrupAckMask = 0xA0000000 := rfl
@[simp] theorem params_cswDefault : Config.params.cswDefault = Config.cswDefault := rfl
@[simp] theorem params_switchCode : Config.params.switchCode = 0xE79E := rfl
@[simp] theorem params_switchBits : Config.params.switchBits = 16 := rfl
@[simp] theorem params_lineResetOnes : Config.params.lineResetOnes = Config.extraOnes + 50 := rfl
@[simp] theorem params_trailingZeroBits : Config.params.trailingZeroBits = Config.extraZeros + 2 := rfl
@[simp] theorem params_wordBytes : Config.params.wordBytes = 4 := rfl
@[simp] theorem params_clkPin : Config.params.clkPin = Config.clkPin := rfl
@[simp] theorem params_dioPin : Config.params.dioPin = Config.dioPin := rfl
@[simp] theorem params_levelError : Config.params.levelError = 0 := rfl
@[simp] theorem params_levelNormal : Config.params.levelNormal = 1 := rfl
@[simp] theorem params_levelTrace : Config.params.levelTrace = 2 := rfl

end Sys2Proof
end

