-- ==== Sys2Proof/Laws/State.lean ====
section
/-! SUPPORT. What each named update of State does to each field: one lemma per field per update, true by rfl, so that no
proof unfolds a record update. -/

namespace Sys2Proof.Machine

variable (s : State)

/-! ### log -/

@[simp] theorem log_clkPin (l : Level) (e : DiagEvent) : (log l e s).clkPin = s.clkPin := rfl
@[simp] theorem log_dioPin (l : Level) (e : DiagEvent) : (log l e s).dioPin = s.dioPin := rfl
@[simp] theorem log_verbosity (l : Level) (e : DiagEvent) : (log l e s).verbosity = s.verbosity := rfl
@[simp] theorem log_selcache (l : Level) (e : DiagEvent) : (log l e s).selcache = s.selcache := rfl
@[simp] theorem log_linkReady (l : Level) (e : DiagEvent) : (log l e s).linkReady = s.linkReady := rfl
@[simp] theorem log_pinsReady (l : Level) (e : DiagEvent) : (log l e s).pinsReady = s.pinsReady := rfl
@[simp] theorem log_clkLevel (l : Level) (e : DiagEvent) : (log l e s).clkLevel = s.clkLevel := rfl
@[simp] theorem log_dioMode (l : Level) (e : DiagEvent) : (log l e s).dioMode = s.dioMode := rfl
@[simp] theorem log_dioLatch (l : Level) (e : DiagEvent) : (log l e s).dioLatch = s.dioLatch := rfl
@[simp] theorem log_result (l : Level) (e : DiagEvent) : (log l e s).result = s.result := rfl
@[simp] theorem log_loadBuffer (l : Level) (e : DiagEvent) : (log l e s).loadBuffer = s.loadBuffer := rfl
@[simp] theorem log_freeCount (l : Level) (e : DiagEvent) : (log l e s).freeCount = s.freeCount := rfl
@[simp] theorem log_hostScript (l : Level) (e : DiagEvent) : (log l e s).hostScript = s.hostScript := rfl
@[simp] theorem log_targetScript (l : Level) (e : DiagEvent) : (log l e s).targetScript = s.targetScript := rfl
@[simp] theorem log_gpio (l : Level) (e : DiagEvent) : (log l e s).gpio = s.gpio := rfl
@[simp] theorem log_diag (l : Level) (e : DiagEvent) :
    (log l e s).diag = if l.passes s.verbosity then s.diag ++ [⟨⟨l, e⟩, s.gpio.length⟩] else s.diag := rfl

/-! ### pulse -/

@[simp] theorem pulse_clkPin : (pulse s).clkPin = s.clkPin := rfl
@[simp] theorem pulse_dioPin : (pulse s).dioPin = s.dioPin := rfl
@[simp] theorem pulse_verbosity : (pulse s).verbosity = s.verbosity := rfl
@[simp] theorem pulse_selcache : (pulse s).selcache = s.selcache := rfl
@[simp] theorem pulse_linkReady : (pulse s).linkReady = s.linkReady := rfl
@[simp] theorem pulse_pinsReady : (pulse s).pinsReady = s.pinsReady := rfl
@[simp] theorem pulse_clkLevel : (pulse s).clkLevel = true := rfl
@[simp] theorem pulse_dioMode : (pulse s).dioMode = s.dioMode := rfl
@[simp] theorem pulse_dioLatch : (pulse s).dioLatch = s.dioLatch := rfl
@[simp] theorem pulse_result : (pulse s).result = s.result := rfl
@[simp] theorem pulse_loadBuffer : (pulse s).loadBuffer = s.loadBuffer := rfl
@[simp] theorem pulse_freeCount : (pulse s).freeCount = s.freeCount := rfl
@[simp] theorem pulse_hostScript : (pulse s).hostScript = s.hostScript := rfl
@[simp] theorem pulse_targetScript : (pulse s).targetScript = s.targetScript := rfl
@[simp] theorem pulse_gpio : (pulse s).gpio = s.gpio ++ pulseActions s := rfl
@[simp] theorem pulse_diag : (pulse s).diag = s.diag := rfl

/-! ### driveBits -/

@[simp] theorem driveBits_clkPin (bs : List Bool) : (driveBits bs s).clkPin = s.clkPin := rfl
@[simp] theorem driveBits_dioPin (bs : List Bool) : (driveBits bs s).dioPin = s.dioPin := rfl
@[simp] theorem driveBits_verbosity (bs : List Bool) : (driveBits bs s).verbosity = s.verbosity := rfl
@[simp] theorem driveBits_selcache (bs : List Bool) : (driveBits bs s).selcache = s.selcache := rfl
@[simp] theorem driveBits_linkReady (bs : List Bool) : (driveBits bs s).linkReady = s.linkReady := rfl
@[simp] theorem driveBits_pinsReady (bs : List Bool) : (driveBits bs s).pinsReady = s.pinsReady := rfl
@[simp] theorem driveBits_clkLevel (bs : List Bool) : (driveBits bs s).clkLevel = (s.clkLevel || !bs.isEmpty) := rfl
@[simp] theorem driveBits_dioMode (bs : List Bool) : (driveBits bs s).dioMode = s.dioMode := rfl
@[simp] theorem driveBits_dioLatch (bs : List Bool) : (driveBits bs s).dioLatch = bs.getLastD s.dioLatch := rfl
@[simp] theorem driveBits_result (bs : List Bool) : (driveBits bs s).result = s.result := rfl
@[simp] theorem driveBits_loadBuffer (bs : List Bool) : (driveBits bs s).loadBuffer = s.loadBuffer := rfl
@[simp] theorem driveBits_freeCount (bs : List Bool) : (driveBits bs s).freeCount = s.freeCount := rfl
@[simp] theorem driveBits_hostScript (bs : List Bool) : (driveBits bs s).hostScript = s.hostScript := rfl
@[simp] theorem driveBits_targetScript (bs : List Bool) : (driveBits bs s).targetScript = s.targetScript := rfl
@[simp] theorem driveBits_gpio (bs : List Bool) :
    (driveBits bs s).gpio = s.gpio ++ bs.flatMap (writeBitActions s) := rfl
@[simp] theorem driveBits_diag (bs : List Bool) : (driveBits bs s).diag = s.diag := rfl

/-! ### sampleBits -/

@[simp] theorem sampleBits_clkPin (n : Nat) : (sampleBits n s).clkPin = s.clkPin := rfl
@[simp] theorem sampleBits_dioPin (n : Nat) : (sampleBits n s).dioPin = s.dioPin := rfl
@[simp] theorem sampleBits_verbosity (n : Nat) : (sampleBits n s).verbosity = s.verbosity := rfl
@[simp] theorem sampleBits_selcache (n : Nat) : (sampleBits n s).selcache = s.selcache := rfl
@[simp] theorem sampleBits_linkReady (n : Nat) : (sampleBits n s).linkReady = s.linkReady := rfl
@[simp] theorem sampleBits_pinsReady (n : Nat) : (sampleBits n s).pinsReady = s.pinsReady := rfl
@[simp] theorem sampleBits_clkLevel (n : Nat) : (sampleBits n s).clkLevel = (s.clkLevel || decide (0 < n)) := rfl
@[simp] theorem sampleBits_dioMode (n : Nat) : (sampleBits n s).dioMode = s.dioMode := rfl
@[simp] theorem sampleBits_dioLatch (n : Nat) : (sampleBits n s).dioLatch = s.dioLatch := rfl
@[simp] theorem sampleBits_result (n : Nat) : (sampleBits n s).result = s.result := rfl
@[simp] theorem sampleBits_loadBuffer (n : Nat) : (sampleBits n s).loadBuffer = s.loadBuffer := rfl
@[simp] theorem sampleBits_freeCount (n : Nat) : (sampleBits n s).freeCount = s.freeCount := rfl
@[simp] theorem sampleBits_hostScript (n : Nat) : (sampleBits n s).hostScript = s.hostScript := rfl
@[simp] theorem sampleBits_targetScript (n : Nat) :
    (sampleBits n s).targetScript = if s.dioMode = .inPU then s.targetScript.drop n else s.targetScript := rfl
@[simp] theorem sampleBits_gpio (n : Nat) :
    (sampleBits n s).gpio = s.gpio ++ (sampledLevels n s).flatMap (readBitActions s) := rfl
@[simp] theorem sampleBits_diag (n : Nat) : (sampleBits n s).diag = s.diag := rfl

/-! ### writeBits -/

@[simp] theorem writeBits_clkPin (v : Word) (n : Nat) : (writeBits v n s).clkPin = s.clkPin := rfl
@[simp] theorem writeBits_dioPin (v : Word) (n : Nat) : (writeBits v n s).dioPin = s.dioPin := rfl
@[simp] theorem writeBits_verbosity (v : Word) (n : Nat) : (writeBits v n s).verbosity = s.verbosity := rfl
@[simp] theorem writeBits_selcache (v : Word) (n : Nat) : (writeBits v n s).selcache = s.selcache := rfl
@[simp] theorem writeBits_linkReady (v : Word) (n : Nat) : (writeBits v n s).linkReady = s.linkReady := rfl
@[simp] theorem writeBits_pinsReady (v : Word) (n : Nat) : (writeBits v n s).pinsReady = s.pinsReady := rfl
@[simp] theorem writeBits_clkLevel (v : Word) (n : Nat) :
    (writeBits v n s).clkLevel = (s.clkLevel || !(lsbBits v n).isEmpty) := rfl
@[simp] theorem writeBits_dioMode (v : Word) (n : Nat) : (writeBits v n s).dioMode = s.dioMode := rfl
@[simp] theorem writeBits_dioLatch (v : Word) (n : Nat) :
    (writeBits v n s).dioLatch = (lsbBits v n).getLastD s.dioLatch := rfl
@[simp] theorem writeBits_result (v : Word) (n : Nat) : (writeBits v n s).result = s.result := rfl
@[simp] theorem writeBits_loadBuffer (v : Word) (n : Nat) : (writeBits v n s).loadBuffer = s.loadBuffer := rfl
@[simp] theorem writeBits_freeCount (v : Word) (n : Nat) : (writeBits v n s).freeCount = s.freeCount := rfl
@[simp] theorem writeBits_hostScript (v : Word) (n : Nat) : (writeBits v n s).hostScript = s.hostScript := rfl
@[simp] theorem writeBits_targetScript (v : Word) (n : Nat) : (writeBits v n s).targetScript = s.targetScript := rfl
@[simp] theorem writeBits_gpio (v : Word) (n : Nat) :
    (writeBits v n s).gpio = s.gpio ++ (lsbBits v n).flatMap (writeBitActions s) := rfl

/-! ### readBits -/

@[simp] theorem readBits_clkPin (n : Nat) : (readBits n s).clkPin = s.clkPin := rfl
@[simp] theorem readBits_dioPin (n : Nat) : (readBits n s).dioPin = s.dioPin := rfl
@[simp] theorem readBits_verbosity (n : Nat) : (readBits n s).verbosity = s.verbosity := rfl
@[simp] theorem readBits_selcache (n : Nat) : (readBits n s).selcache = s.selcache := rfl
@[simp] theorem readBits_linkReady (n : Nat) : (readBits n s).linkReady = s.linkReady := rfl
@[simp] theorem readBits_pinsReady (n : Nat) : (readBits n s).pinsReady = s.pinsReady := rfl
@[simp] theorem readBits_clkLevel (n : Nat) : (readBits n s).clkLevel = (s.clkLevel || decide (0 < n)) := rfl
@[simp] theorem readBits_dioMode (n : Nat) : (readBits n s).dioMode = s.dioMode := rfl
@[simp] theorem readBits_dioLatch (n : Nat) : (readBits n s).dioLatch = s.dioLatch := rfl
@[simp] theorem readBits_result (n : Nat) : (readBits n s).result = s.result := rfl
@[simp] theorem readBits_loadBuffer (n : Nat) : (readBits n s).loadBuffer = s.loadBuffer := rfl
@[simp] theorem readBits_freeCount (n : Nat) : (readBits n s).freeCount = s.freeCount := rfl
@[simp] theorem readBits_hostScript (n : Nat) : (readBits n s).hostScript = s.hostScript := rfl
@[simp] theorem readBits_targetScript (n : Nat) :
    (readBits n s).targetScript = if s.dioMode = .inPU then s.targetScript.drop n else s.targetScript := rfl
@[simp] theorem readBits_gpio (n : Nat) :
    (readBits n s).gpio = s.gpio ++ (sampledLevels n s).flatMap (readBitActions s) := rfl

/-! ### readTurnaround -/

@[simp] theorem readTurnaround_clkPin : (readTurnaround s).clkPin = s.clkPin := rfl
@[simp] theorem readTurnaround_dioPin : (readTurnaround s).dioPin = s.dioPin := rfl
@[simp] theorem readTurnaround_verbosity : (readTurnaround s).verbosity = s.verbosity := rfl
@[simp] theorem readTurnaround_selcache : (readTurnaround s).selcache = s.selcache := rfl
@[simp] theorem readTurnaround_linkReady : (readTurnaround s).linkReady = s.linkReady := rfl
@[simp] theorem readTurnaround_pinsReady : (readTurnaround s).pinsReady = s.pinsReady := rfl
@[simp] theorem readTurnaround_clkLevel : (readTurnaround s).clkLevel = true := rfl
@[simp] theorem readTurnaround_dioMode : (readTurnaround s).dioMode = .inPU := rfl
@[simp] theorem readTurnaround_dioLatch : (readTurnaround s).dioLatch = s.dioLatch := rfl
@[simp] theorem readTurnaround_result : (readTurnaround s).result = s.result := rfl
@[simp] theorem readTurnaround_loadBuffer : (readTurnaround s).loadBuffer = s.loadBuffer := rfl
@[simp] theorem readTurnaround_freeCount : (readTurnaround s).freeCount = s.freeCount := rfl
@[simp] theorem readTurnaround_hostScript : (readTurnaround s).hostScript = s.hostScript := rfl
@[simp] theorem readTurnaround_targetScript : (readTurnaround s).targetScript = s.targetScript := rfl
@[simp] theorem readTurnaround_gpio :
    (readTurnaround s).gpio = s.gpio ++ .setMode .dio s.dioPin .inPU :: pulseActions s := rfl

/-! ### writeTurnaround -/

@[simp] theorem writeTurnaround_clkPin : (writeTurnaround s).clkPin = s.clkPin := rfl
@[simp] theorem writeTurnaround_dioPin : (writeTurnaround s).dioPin = s.dioPin := rfl
@[simp] theorem writeTurnaround_verbosity : (writeTurnaround s).verbosity = s.verbosity := rfl
@[simp] theorem writeTurnaround_selcache : (writeTurnaround s).selcache = s.selcache := rfl
@[simp] theorem writeTurnaround_linkReady : (writeTurnaround s).linkReady = s.linkReady := rfl
@[simp] theorem writeTurnaround_pinsReady : (writeTurnaround s).pinsReady = s.pinsReady := rfl
@[simp] theorem writeTurnaround_clkLevel : (writeTurnaround s).clkLevel = true := rfl
@[simp] theorem writeTurnaround_dioMode : (writeTurnaround s).dioMode = .outPP := rfl
@[simp] theorem writeTurnaround_dioLatch : (writeTurnaround s).dioLatch = s.dioLatch := rfl
@[simp] theorem writeTurnaround_result : (writeTurnaround s).result = s.result := rfl
@[simp] theorem writeTurnaround_loadBuffer : (writeTurnaround s).loadBuffer = s.loadBuffer := rfl
@[simp] theorem writeTurnaround_freeCount : (writeTurnaround s).freeCount = s.freeCount := rfl
@[simp] theorem writeTurnaround_hostScript : (writeTurnaround s).hostScript = s.hostScript := rfl
@[simp] theorem writeTurnaround_targetScript : (writeTurnaround s).targetScript = s.targetScript := rfl
@[simp] theorem writeTurnaround_gpio :
    (writeTurnaround s).gpio = s.gpio ++ (pulseActions s ++ [.setMode .dio s.dioPin .outPP]) := rfl

/-! ### setSelcache -/

@[simp] theorem setSelcache_clkPin (v : Word) : (setSelcache v s).clkPin = s.clkPin := rfl
@[simp] theorem setSelcache_dioPin (v : Word) : (setSelcache v s).dioPin = s.dioPin := rfl
@[simp] theorem setSelcache_verbosity (v : Word) : (setSelcache v s).verbosity = s.verbosity := rfl
@[simp] theorem setSelcache_selcache (v : Word) : (setSelcache v s).selcache = v := rfl
@[simp] theorem setSelcache_linkReady (v : Word) : (setSelcache v s).linkReady = s.linkReady := rfl
@[simp] theorem setSelcache_pinsReady (v : Word) : (setSelcache v s).pinsReady = s.pinsReady := rfl
@[simp] theorem setSelcache_clkLevel (v : Word) : (setSelcache v s).clkLevel = s.clkLevel := rfl
@[simp] theorem setSelcache_dioMode (v : Word) : (setSelcache v s).dioMode = s.dioMode := rfl
@[simp] theorem setSelcache_dioLatch (v : Word) : (setSelcache v s).dioLatch = s.dioLatch := rfl
@[simp] theorem setSelcache_result (v : Word) : (setSelcache v s).result = s.result := rfl
@[simp] theorem setSelcache_loadBuffer (v : Word) : (setSelcache v s).loadBuffer = s.loadBuffer := rfl
@[simp] theorem setSelcache_freeCount (v : Word) : (setSelcache v s).freeCount = s.freeCount := rfl
@[simp] theorem setSelcache_hostScript (v : Word) : (setSelcache v s).hostScript = s.hostScript := rfl
@[simp] theorem setSelcache_targetScript (v : Word) : (setSelcache v s).targetScript = s.targetScript := rfl
@[simp] theorem setSelcache_gpio (v : Word) : (setSelcache v s).gpio = s.gpio := rfl
@[simp] theorem setSelcache_diag (v : Word) : (setSelcache v s).diag = s.diag := rfl

/-! ### putVerbosity -/

@[simp] theorem putVerbosity_clkPin (l : Level) : (putVerbosity l s).clkPin = s.clkPin := rfl
@[simp] theorem putVerbosity_dioPin (l : Level) : (putVerbosity l s).dioPin = s.dioPin := rfl
@[simp] theorem putVerbosity_verbosity (l : Level) : (putVerbosity l s).verbosity = l := rfl
@[simp] theorem putVerbosity_selcache (l : Level) : (putVerbosity l s).selcache = s.selcache := rfl
@[simp] theorem putVerbosity_linkReady (l : Level) : (putVerbosity l s).linkReady = s.linkReady := rfl
@[simp] theorem putVerbosity_pinsReady (l : Level) : (putVerbosity l s).pinsReady = s.pinsReady := rfl
@[simp] theorem putVerbosity_clkLevel (l : Level) : (putVerbosity l s).clkLevel = s.clkLevel := rfl
@[simp] theorem putVerbosity_dioMode (l : Level) : (putVerbosity l s).dioMode = s.dioMode := rfl
@[simp] theorem putVerbosity_dioLatch (l : Level) : (putVerbosity l s).dioLatch = s.dioLatch := rfl
@[simp] theorem putVerbosity_result (l : Level) : (putVerbosity l s).result = s.result := rfl
@[simp] theorem putVerbosity_loadBuffer (l : Level) : (putVerbosity l s).loadBuffer = s.loadBuffer := rfl
@[simp] theorem putVerbosity_freeCount (l : Level) : (putVerbosity l s).freeCount = s.freeCount := rfl
@[simp] theorem putVerbosity_hostScript (l : Level) : (putVerbosity l s).hostScript = s.hostScript := rfl
@[simp] theorem putVerbosity_targetScript (l : Level) : (putVerbosity l s).targetScript = s.targetScript := rfl
@[simp] theorem putVerbosity_gpio (l : Level) : (putVerbosity l s).gpio = s.gpio := rfl
@[simp] theorem putVerbosity_diag (l : Level) : (putVerbosity l s).diag = s.diag := rfl

/-! ### markReady -/

@[simp] theorem markReady_clkPin : (markReady s).clkPin = s.clkPin := rfl
@[simp] theorem markReady_dioPin : (markReady s).dioPin = s.dioPin := rfl
@[simp] theorem markReady_verbosity : (markReady s).verbosity = s.verbosity := rfl
@[simp] theorem markReady_selcache : (markReady s).selcache = s.selcache := rfl
@[simp] theorem markReady_linkReady : (markReady s).linkReady = true := rfl
@[simp] theorem markReady_pinsReady : (markReady s).pinsReady = s.pinsReady := rfl
@[simp] theorem markReady_clkLevel : (markReady s).clkLevel = s.clkLevel := rfl
@[simp] theorem markReady_dioMode : (markReady s).dioMode = s.dioMode := rfl
@[simp] theorem markReady_dioLatch : (markReady s).dioLatch = s.dioLatch := rfl
@[simp] theorem markReady_result : (markReady s).result = s.result := rfl
@[simp] theorem markReady_loadBuffer : (markReady s).loadBuffer = s.loadBuffer := rfl
@[simp] theorem markReady_freeCount : (markReady s).freeCount = s.freeCount := rfl
@[simp] theorem markReady_hostScript : (markReady s).hostScript = s.hostScript := rfl
@[simp] theorem markReady_targetScript : (markReady s).targetScript = s.targetScript := rfl
@[simp] theorem markReady_gpio : (markReady s).gpio = s.gpio := rfl
@[simp] theorem markReady_diag : (markReady s).diag = s.diag := rfl

/-! ### presentWord -/

@[simp] theorem presentWord_clkPin (w : Word) : (presentWord w s).clkPin = s.clkPin := rfl
@[simp] theorem presentWord_dioPin (w : Word) : (presentWord w s).dioPin = s.dioPin := rfl
@[simp] theorem presentWord_verbosity (w : Word) : (presentWord w s).verbosity = s.verbosity := rfl
@[simp] theorem presentWord_selcache (w : Word) : (presentWord w s).selcache = s.selcache := rfl
@[simp] theorem presentWord_linkReady (w : Word) : (presentWord w s).linkReady = s.linkReady := rfl
@[simp] theorem presentWord_pinsReady (w : Word) : (presentWord w s).pinsReady = s.pinsReady := rfl
@[simp] theorem presentWord_clkLevel (w : Word) : (presentWord w s).clkLevel = s.clkLevel := rfl
@[simp] theorem presentWord_dioMode (w : Word) : (presentWord w s).dioMode = s.dioMode := rfl
@[simp] theorem presentWord_dioLatch (w : Word) : (presentWord w s).dioLatch = s.dioLatch := rfl
@[simp] theorem presentWord_result (w : Word) : (presentWord w s).result = ⟨true, 0, w⟩ := rfl
@[simp] theorem presentWord_loadBuffer (w : Word) : (presentWord w s).loadBuffer = s.loadBuffer := rfl
@[simp] theorem presentWord_freeCount (w : Word) : (presentWord w s).freeCount = s.freeCount := rfl
@[simp] theorem presentWord_hostScript (w : Word) : (presentWord w s).hostScript = s.hostScript := rfl
@[simp] theorem presentWord_targetScript (w : Word) : (presentWord w s).targetScript = s.targetScript := rfl
@[simp] theorem presentWord_gpio (w : Word) : (presentWord w s).gpio = s.gpio := rfl
@[simp] theorem presentWord_diag (w : Word) : (presentWord w s).diag = s.diag := rfl

/-! ### presentDone -/

@[simp] theorem presentDone_clkPin : (presentDone s).clkPin = s.clkPin := rfl
@[simp] theorem presentDone_dioPin : (presentDone s).dioPin = s.dioPin := rfl
@[simp] theorem presentDone_verbosity : (presentDone s).verbosity = s.verbosity := rfl
@[simp] theorem presentDone_selcache : (presentDone s).selcache = s.selcache := rfl
@[simp] theorem presentDone_linkReady : (presentDone s).linkReady = s.linkReady := rfl
@[simp] theorem presentDone_pinsReady : (presentDone s).pinsReady = s.pinsReady := rfl
@[simp] theorem presentDone_clkLevel : (presentDone s).clkLevel = s.clkLevel := rfl
@[simp] theorem presentDone_dioMode : (presentDone s).dioMode = s.dioMode := rfl
@[simp] theorem presentDone_dioLatch : (presentDone s).dioLatch = s.dioLatch := rfl
@[simp] theorem presentDone_result : (presentDone s).result = ⟨true, 0, Config.freeWord s.freeCount⟩ := rfl
@[simp] theorem presentDone_loadBuffer : (presentDone s).loadBuffer = s.loadBuffer := rfl
@[simp] theorem presentDone_freeCount : (presentDone s).freeCount = s.freeCount + 1 := rfl
@[simp] theorem presentDone_hostScript : (presentDone s).hostScript = s.hostScript := rfl
@[simp] theorem presentDone_targetScript : (presentDone s).targetScript = s.targetScript := rfl
@[simp] theorem presentDone_gpio : (presentDone s).gpio = s.gpio := rfl
@[simp] theorem presentDone_diag : (presentDone s).diag = s.diag := rfl

/-! ### presentFail -/

@[simp] theorem presentFail_clkPin (e : ErrorKind) : (presentFail e s).clkPin = s.clkPin := rfl
@[simp] theorem presentFail_dioPin (e : ErrorKind) : (presentFail e s).dioPin = s.dioPin := rfl
@[simp] theorem presentFail_verbosity (e : ErrorKind) : (presentFail e s).verbosity = s.verbosity := rfl
@[simp] theorem presentFail_selcache (e : ErrorKind) : (presentFail e s).selcache = s.selcache := rfl
@[simp] theorem presentFail_linkReady (e : ErrorKind) : (presentFail e s).linkReady = s.linkReady := rfl
@[simp] theorem presentFail_pinsReady (e : ErrorKind) : (presentFail e s).pinsReady = s.pinsReady := rfl
@[simp] theorem presentFail_clkLevel (e : ErrorKind) : (presentFail e s).clkLevel = s.clkLevel := rfl
@[simp] theorem presentFail_dioMode (e : ErrorKind) : (presentFail e s).dioMode = s.dioMode := rfl
@[simp] theorem presentFail_dioLatch (e : ErrorKind) : (presentFail e s).dioLatch = s.dioLatch := rfl
@[simp] theorem presentFail_result (e : ErrorKind) :
    (presentFail e s).result = ⟨false, e.code, Config.freeWord s.freeCount⟩ := rfl
@[simp] theorem presentFail_loadBuffer (e : ErrorKind) : (presentFail e s).loadBuffer = s.loadBuffer := rfl
@[simp] theorem presentFail_freeCount (e : ErrorKind) : (presentFail e s).freeCount = s.freeCount + 1 := rfl
@[simp] theorem presentFail_hostScript (e : ErrorKind) : (presentFail e s).hostScript = s.hostScript := rfl
@[simp] theorem presentFail_targetScript (e : ErrorKind) : (presentFail e s).targetScript = s.targetScript := rfl
@[simp] theorem presentFail_gpio (e : ErrorKind) : (presentFail e s).gpio = s.gpio := rfl
@[simp] theorem presentFail_diag (e : ErrorKind) : (presentFail e s).diag = s.diag := rfl

/-! ### fillBuffer -/

@[simp] theorem fillBuffer_clkPin (ws : List Word) : (fillBuffer ws s).clkPin = s.clkPin := rfl
@[simp] theorem fillBuffer_dioPin (ws : List Word) : (fillBuffer ws s).dioPin = s.dioPin := rfl
@[simp] theorem fillBuffer_verbosity (ws : List Word) : (fillBuffer ws s).verbosity = s.verbosity := rfl
@[simp] theorem fillBuffer_selcache (ws : List Word) : (fillBuffer ws s).selcache = s.selcache := rfl
@[simp] theorem fillBuffer_linkReady (ws : List Word) : (fillBuffer ws s).linkReady = s.linkReady := rfl
@[simp] theorem fillBuffer_pinsReady (ws : List Word) : (fillBuffer ws s).pinsReady = s.pinsReady := rfl
@[simp] theorem fillBuffer_clkLevel (ws : List Word) : (fillBuffer ws s).clkLevel = s.clkLevel := rfl
@[simp] theorem fillBuffer_dioMode (ws : List Word) : (fillBuffer ws s).dioMode = s.dioMode := rfl
@[simp] theorem fillBuffer_dioLatch (ws : List Word) : (fillBuffer ws s).dioLatch = s.dioLatch := rfl
@[simp] theorem fillBuffer_result (ws : List Word) : (fillBuffer ws s).result = s.result := rfl
@[simp] theorem fillBuffer_loadBuffer (ws : List Word) : (fillBuffer ws s).loadBuffer = ws := rfl
@[simp] theorem fillBuffer_freeCount (ws : List Word) : (fillBuffer ws s).freeCount = s.freeCount := rfl
@[simp] theorem fillBuffer_hostScript (ws : List Word) : (fillBuffer ws s).hostScript = s.hostScript := rfl
@[simp] theorem fillBuffer_targetScript (ws : List Word) : (fillBuffer ws s).targetScript = s.targetScript := rfl
@[simp] theorem fillBuffer_gpio (ws : List Word) : (fillBuffer ws s).gpio = s.gpio := rfl
@[simp] theorem fillBuffer_diag (ws : List Word) : (fillBuffer ws s).diag = s.diag := rfl

/-! ### spoilBuffer -/

@[simp] theorem spoilBuffer_clkPin (n : Nat) : (spoilBuffer n s).clkPin = s.clkPin := rfl
@[simp] theorem spoilBuffer_dioPin (n : Nat) : (spoilBuffer n s).dioPin = s.dioPin := rfl
@[simp] theorem spoilBuffer_verbosity (n : Nat) : (spoilBuffer n s).verbosity = s.verbosity := rfl
@[simp] theorem spoilBuffer_selcache (n : Nat) : (spoilBuffer n s).selcache = s.selcache := rfl
@[simp] theorem spoilBuffer_linkReady (n : Nat) : (spoilBuffer n s).linkReady = s.linkReady := rfl
@[simp] theorem spoilBuffer_pinsReady (n : Nat) : (spoilBuffer n s).pinsReady = s.pinsReady := rfl
@[simp] theorem spoilBuffer_clkLevel (n : Nat) : (spoilBuffer n s).clkLevel = s.clkLevel := rfl
@[simp] theorem spoilBuffer_dioMode (n : Nat) : (spoilBuffer n s).dioMode = s.dioMode := rfl
@[simp] theorem spoilBuffer_dioLatch (n : Nat) : (spoilBuffer n s).dioLatch = s.dioLatch := rfl
@[simp] theorem spoilBuffer_result (n : Nat) : (spoilBuffer n s).result = s.result := rfl
@[simp] theorem spoilBuffer_loadBuffer (n : Nat) :
    (spoilBuffer n s).loadBuffer = (List.range n).map fun i => Config.freeWord (s.freeCount + i) := rfl
@[simp] theorem spoilBuffer_freeCount (n : Nat) : (spoilBuffer n s).freeCount = s.freeCount + n := rfl
@[simp] theorem spoilBuffer_hostScript (n : Nat) : (spoilBuffer n s).hostScript = s.hostScript := rfl
@[simp] theorem spoilBuffer_targetScript (n : Nat) : (spoilBuffer n s).targetScript = s.targetScript := rfl
@[simp] theorem spoilBuffer_gpio (n : Nat) : (spoilBuffer n s).gpio = s.gpio := rfl
@[simp] theorem spoilBuffer_diag (n : Nat) : (spoilBuffer n s).diag = s.diag := rfl

/-! ### linkStep1 -/

@[simp] theorem linkStep1_clkPin (c : Params) (clk dio : PinId) (l : Level) :
    (linkStep1 c clk dio l s).clkPin = clk := rfl
@[simp] theorem linkStep1_dioPin (c : Params) (clk dio : PinId) (l : Level) :
    (linkStep1 c clk dio l s).dioPin = dio := rfl
@[simp] theorem linkStep1_verbosity (c : Params) (clk dio : PinId) (l : Level) :
    (linkStep1 c clk dio l s).verbosity = l := rfl
@[simp] theorem linkStep1_selcache (c : Params) (clk dio : PinId) (l : Level) :
    (linkStep1 c clk dio l s).selcache = c.selcacheInvalid := rfl
@[simp] theorem linkStep1_linkReady (c : Params) (clk dio : PinId) (l : Level) :
    (linkStep1 c clk dio l s).linkReady = false := rfl
@[simp] theorem linkStep1_pinsReady (c : Params) (clk dio : PinId) (l : Level) :
    (linkStep1 c clk dio l s).pinsReady = true := rfl
@[simp] theorem linkStep1_clkLevel (c : Params) (clk dio : PinId) (l : Level) :
    (linkStep1 c clk dio l s).clkLevel = true := rfl
@[simp] theorem linkStep1_dioMode (c : Params) (clk dio : PinId) (l : Level) :
    (linkStep1 c clk dio l s).dioMode = .outPP := rfl
@[simp] theorem linkStep1_dioLatch (c : Params) (clk dio : PinId) (l : Level) :
    (linkStep1 c clk dio l s).dioLatch = true := rfl
@[simp] theorem linkStep1_result (c : Params) (clk dio : PinId) (l : Level) :
    (linkStep1 c clk dio l s).result = s.result := rfl
@[simp] theorem linkStep1_loadBuffer (c : Params) (clk dio : PinId) (l : Level) :
    (linkStep1 c clk dio l s).loadBuffer = s.loadBuffer := rfl
@[simp] theorem linkStep1_freeCount (c : Params) (clk dio : PinId) (l : Level) :
    (linkStep1 c clk dio l s).freeCount = s.freeCount := rfl
@[simp] theorem linkStep1_hostScript (c : Params) (clk dio : PinId) (l : Level) :
    (linkStep1 c clk dio l s).hostScript = s.hostScript := rfl
@[simp] theorem linkStep1_targetScript (c : Params) (clk dio : PinId) (l : Level) :
    (linkStep1 c clk dio l s).targetScript = s.targetScript := rfl
@[simp] theorem linkStep1_gpio (c : Params) (clk dio : PinId) (l : Level) :
    (linkStep1 c clk dio l s).gpio = s.gpio ++ [.setLevel .clk clk true, .setMode .clk clk .outPP, .setLevel .dio dio true, .setMode .dio dio .outPP] := rfl
@[simp] theorem linkStep1_diag (c : Params) (clk dio : PinId) (l : Level) :
    (linkStep1 c clk dio l s).diag = s.diag := rfl

/-! ### sendRun -/

@[simp] theorem sendRun_clkPin (b : Bool) (k : Nat) : (sendRun b k s).clkPin = s.clkPin := rfl
@[simp] theorem sendRun_dioPin (b : Bool) (k : Nat) : (sendRun b k s).dioPin = s.dioPin := rfl
@[simp] theorem sendRun_verbosity (b : Bool) (k : Nat) : (sendRun b k s).verbosity = s.verbosity := rfl
@[simp] theorem sendRun_selcache (b : Bool) (k : Nat) : (sendRun b k s).selcache = s.selcache := rfl
@[simp] theorem sendRun_linkReady (b : Bool) (k : Nat) : (sendRun b k s).linkReady = s.linkReady := rfl
@[simp] theorem sendRun_pinsReady (b : Bool) (k : Nat) : (sendRun b k s).pinsReady = s.pinsReady := rfl
@[simp] theorem sendRun_clkLevel (b : Bool) (k : Nat) :
    (sendRun b k s).clkLevel = (s.clkLevel || !(List.replicate k b).isEmpty) := rfl
@[simp] theorem sendRun_dioMode (b : Bool) (k : Nat) : (sendRun b k s).dioMode = s.dioMode := rfl
@[simp] theorem sendRun_dioLatch (b : Bool) (k : Nat) :
    (sendRun b k s).dioLatch = (List.replicate k b).getLastD s.dioLatch := rfl
@[simp] theorem sendRun_result (b : Bool) (k : Nat) : (sendRun b k s).result = s.result := rfl
@[simp] theorem sendRun_loadBuffer (b : Bool) (k : Nat) : (sendRun b k s).loadBuffer = s.loadBuffer := rfl
@[simp] theorem sendRun_freeCount (b : Bool) (k : Nat) : (sendRun b k s).freeCount = s.freeCount := rfl
@[simp] theorem sendRun_hostScript (b : Bool) (k : Nat) : (sendRun b k s).hostScript = s.hostScript := rfl
@[simp] theorem sendRun_targetScript (b : Bool) (k : Nat) : (sendRun b k s).targetScript = s.targetScript := rfl
@[simp] theorem sendRun_gpio (b : Bool) (k : Nat) :
    (sendRun b k s).gpio = s.gpio ++ (List.replicate k b).flatMap (writeBitActions s) := rfl

end Sys2Proof.Machine
end

