-- ==== Sys2Proof/Laws/Wire.lean ====
section
/-! SUPPORT. Everything a piece of wire activity can do, said once: the relation Wire, that it composes, and that each
wire primitive is one. -/

namespace Sys2Proof.Machine

/-! ### The pins along a list of GPIO actions -/

/-- Clock level, mode and latch (R28). -/
abbrev Pins := Bool × DriveMode × Bool

/-- The three pin elements of a state. -/
def State.pins (s : State) : Pins := (s.clkLevel, s.dioMode, s.dioLatch)

/-- One GPIO action's effect on the pins. -/
def stepPins (p : Pins) : GpioEvent → Pins
  | .setMode .dio _ m => (p.1, m, p.2.2)
  | .setMode .clk _ _ => p
  | .setLevel .dio _ b => (p.1, p.2.1, b)
  | .setLevel .clk _ b => (b, p.2)
  | .readLevel _ _ _ => p

/-- The pins after a list of actions. -/
def pinsAfter (p : Pins) (es : List GpioEvent) : Pins := es.foldl stepPins p

@[simp] theorem pinsAfter_nil (p : Pins) : pinsAfter p [] = p := rfl

@[simp] theorem pinsAfter_cons (p : Pins) (e : GpioEvent) (es : List GpioEvent) :
    pinsAfter p (e :: es) = pinsAfter (stepPins p e) es := rfl

theorem pinsAfter_append (p : Pins) (es es' : List GpioEvent) :
    pinsAfter p (es ++ es') = pinsAfter (pinsAfter p es) es' := by
  simp [pinsAfter]

@[simp] theorem pulseCount_nil : pulseCount [] = 0 := rfl

@[simp] theorem pulseCount_append (es es' : List GpioEvent) :
    pulseCount (es ++ es') = pulseCount es + pulseCount es' := by
  simp [pulseCount]

/-- What an observer sees of two lists of actions in a row. -/
theorem clockedBits_append (p : Pins) (es es' : List GpioEvent) :
    clockedBits p.1 p.2.1 p.2.2 (es ++ es')
      = clockedBits p.1 p.2.1 p.2.2 es
        ++ clockedBits (pinsAfter p es).1 (pinsAfter p es).2.1 (pinsAfter p es).2.2 es' := by
  induction es generalizing p with
  | nil => rfl
  | cons e es ih =>
    rcases e with ⟨_ | _, pin, m⟩ | ⟨_ | _, pin, b⟩ | ⟨l, pin, b⟩
    · simpa [clockedBits, stepPins] using ih p
    · simpa [clockedBits, stepPins] using ih (p.1, m, p.2.2)
    · have h := ih (b, p.2)
      by_cases hc : (b && !p.1) = true <;> simp [clockedBits, stepPins, hc] <;> simpa using h
    · simpa [clockedBits, stepPins] using ih (p.1, p.2.1, b)
    · simpa [clockedBits, stepPins] using ih p

/-! ### Error events -/

theorem errorEvents_append (s t : State) (es : List Emitted) (h : t.diag = s.diag ++ es) :
    t.errorEvents = s.errorEvents ++ (es.map Emitted.diag).filter Diag.isError := by
  simp [State.errorEvents, h]

/-- What `log` does to the diagnostics. -/
theorem log_diag_eq (l : Level) (e : DiagEvent) (s : State) :
    (log l e s).diag = s.diag ++ if l.passes s.verbosity then [⟨⟨l, e⟩, s.gpio.length⟩] else [] := by
  by_cases h : l.passes s.verbosity = true <;> simp [h]

@[simp] theorem error_passes (v : Level) : Level.error.passes v = true := by cases v <;> rfl

@[simp] theorem errorEvents_log_error (e : DiagEvent) (s : State) :
    (log .error e s).errorEvents = s.errorEvents ++ [⟨.error, e⟩] := by
  simp [State.errorEvents, Diag.isError]

@[simp] theorem errorEvents_log_normal (e : DiagEvent) (s : State) : (log .normal e s).errorEvents = s.errorEvents := by
  by_cases h : Level.normal.passes s.verbosity = true <;> simp [State.errorEvents, Diag.isError, h]

@[simp] theorem errorEvents_log_trace (e : DiagEvent) (s : State) : (log .trace e s).errorEvents = s.errorEvents := by
  by_cases h : Level.trace.passes s.verbosity = true <;> simp [State.errorEvents, Diag.isError, h]

@[simp] theorem milestones_log_error (e : DiagEvent) (s : State) : (log .error e s).milestones = s.milestones := by
  simp [State.milestones]

@[simp] theorem milestones_log_trace (e : DiagEvent) (s : State) : (log .trace e s).milestones = s.milestones := by
  by_cases h : Level.trace.passes s.verbosity = true <;> simp [State.milestones, h]

@[simp] theorem milestones_log_normal (e : DiagEvent) (s : State) :
    (log .normal e s).milestones
      = s.milestones ++ if Level.normal.passes s.verbosity then [⟨.normal, e⟩] else [] := by
  by_cases h : Level.normal.passes s.verbosity = true <;> simp [State.milestones, h]

/-! ### When errors are reported -/

theorem ReportsLast.refl (s : State) : ReportsLast s s := ⟨[], by simp⟩

/-- Activity that reports no error, whatever it does on the wire, then reports that come last. -/
theorem ReportsLast.after {s t u : State} (hd : s.diag <+: t.diag) (he : t.errorEvents = s.errorEvents)
    (h : ReportsLast t u) : ReportsLast s u := by
  obtain ⟨ds, hds⟩ := hd
  obtain ⟨es, hes, hl⟩ := h
  rw [errorEvents_append s t ds hds.symm, List.append_right_eq_self] at he
  refine ⟨ds ++ es, by rw [hes, ← hds, List.append_assoc], fun e hm => ?_⟩
  rcases List.mem_append.mp hm with hm | hm
  · exact fun hx => absurd hx (List.filter_eq_nil_iff.mp he e.diag (List.mem_map_of_mem hm))
  · exact hl e hm

/-- Activity that reports no error. -/
theorem ReportsLast.quiet {s t : State} (hd : s.diag <+: t.diag) (he : t.errorEvents = s.errorEvents) : ReportsLast s t :=
  (ReportsLast.refl t).after hd he

/-- A diagnostic handed over with no GPIO action in between. -/
theorem ReportsLast.logged {s t : State} (h : ReportsLast s t) (l : Level) (e : DiagEvent) : ReportsLast s (log l e t) := by
  obtain ⟨es, hes, hl⟩ := h
  refine ⟨es ++ if l.passes t.verbosity then [⟨⟨l, e⟩, t.gpio.length⟩] else [], by rw [log_diag_eq, hes, List.append_assoc],
    fun x hm hx => ?_⟩
  rcases List.mem_append.mp hm with hm | hm
  · exact hl x hm hx
  · split at hm
    · rw [List.mem_singleton.mp hm]; rfl
    · cases hm

/-- A change that touches neither output port. -/
theorem ReportsLast.congr {s t u : State} (h : ReportsLast s t) (hd : u.diag = t.diag) (hg : u.gpio = t.gpio) :
    ReportsLast s u := by
  obtain ⟨es, hes, hl⟩ := h
  exact ⟨es, hd.trans hes, by rw [hg]; exact hl⟩

/-! ### Wire activity -/

/-- `t` comes from `s` by wire activity that used up `used` answers, made `pulses` clock pulses and raised the error-level
diagnostics `errs`. The selection cache and the milestones are not said here. -/
structure Wire (s t : State) (used pulses : Nat) (errs : List Diag) : Prop extends SameLink s t where
  loadBuffer : t.loadBuffer = s.loadBuffer
  result : t.result = s.result
  freeCount : t.freeCount = s.freeCount
  acts : ∃ es, t.gpio = s.gpio ++ es ∧ pinsAfter s.pins es = t.pins ∧ pulseCount es = pulses
  target : t.targetScript = s.targetScript.drop used
  errors : t.errorEvents = s.errorEvents ++ errs
  diag : s.diag <+: t.diag

theorem Wire.refl (s : State) : Wire s s 0 0 [] where
  clkPin := rfl
  dioPin := rfl
  verbosity := rfl
  linkReady := rfl
  pinsReady := rfl
  hostScript := rfl
  loadBuffer := rfl
  result := rfl
  freeCount := rfl
  acts := ⟨[], by simp⟩
  target := rfl
  errors := by simp
  diag := List.prefix_refl _

/-- Wire activity composes. -/
theorem Wire.trans {s t u : State} {m n p q : Nat} {ds es : List Diag} (h : Wire s t m p ds) (k : Wire t u n q es) :
    Wire s u (m + n) (p + q) (ds ++ es) where
  clkPin := k.clkPin.trans h.clkPin
  dioPin := k.dioPin.trans h.dioPin
  verbosity := k.verbosity.trans h.verbosity
  linkReady := k.linkReady.trans h.linkReady
  pinsReady := k.pinsReady.trans h.pinsReady
  hostScript := k.hostScript.trans h.hostScript
  loadBuffer := k.loadBuffer.trans h.loadBuffer
  result := k.result.trans h.result
  freeCount := k.freeCount.trans h.freeCount
  acts := by
    obtain ⟨a, ha, pa, ca⟩ := h.acts
    obtain ⟨b, hb, pb, cb⟩ := k.acts
    exact ⟨a ++ b, by rw [hb, ha, List.append_assoc], by rw [pinsAfter_append, pa, pb], by simp [ca, cb]⟩
  target := by rw [k.target, h.target, List.drop_drop]
  errors := by rw [k.errors, h.errors, List.append_assoc]
  diag := h.diag.trans k.diag

/-- Wire activity that reports no error, then reports that come last. -/
theorem Wire.reportsLast {s t u : State} {m p : Nat} (h : Wire s t m p []) (k : ReportsLast t u) : ReportsLast s u :=
  k.after h.diag (by rw [h.errors, List.append_nil])

theorem Wire.pulsesSince {s t : State} {m p : Nat} {ds : List Diag} (h : Wire s t m p ds) : pulsesSince s t = p := by
  obtain ⟨es, he, -, hc⟩ := h.acts
  simp [Machine.pulsesSince, actionsSince, he, hc]

/-- What an observer sees of two activities in a row. -/
theorem Wire.bitsSince_trans {s t u : State} {m n p q : Nat} {ds es : List Diag} (h : Wire s t m p ds)
    (k : Wire t u n q es) : bitsSince s u = bitsSince s t ++ bitsSince t u := by
  obtain ⟨a, ha, pa, -⟩ := h.acts
  obtain ⟨b, hb, -, -⟩ := k.acts
  have hs := clockedBits_append s.pins a b
  rw [pa] at hs
  have h1 : actionsSince s u = a ++ b := by simp [actionsSince, hb, ha]
  have h2 : actionsSince s t = a := by simp [actionsSince, ha]
  have h3 : actionsSince t u = b := by simp [actionsSince, hb]
  rw [Machine.bitsSince, h1, Machine.bitsSince, h2, Machine.bitsSince, h3]
  exact hs

@[simp] theorem bitsSince_self (s : State) : bitsSince s s = [] := by
  simp [bitsSince, actionsSince, clockedBits]

theorem Wire.gpio {s t : State} {m p : Nat} {ds : List Diag} (h : Wire s t m p ds) : s.gpio <+: t.gpio := by
  obtain ⟨es, he, -, -⟩ := h.acts
  exact ⟨es, he.symm⟩

/-! ### The primitives -/

/-- A trace event is no wire activity. -/
theorem wire_log_trace (e : DiagEvent) (s : State) : Wire s (log .trace e s) 0 0 [] where
  clkPin := rfl
  dioPin := rfl
  verbosity := rfl
  linkReady := rfl
  pinsReady := rfl
  hostScript := rfl
  loadBuffer := rfl
  result := rfl
  freeCount := rfl
  acts := ⟨[], by simp [State.pins]⟩
  target := rfl
  errors := by simp
  diag := by rw [log_diag_eq]; exact List.prefix_append _ _

/-- A milestone is no wire activity. -/
theorem wire_log_normal (e : DiagEvent) (s : State) : Wire s (log .normal e s) 0 0 [] where
  clkPin := rfl
  dioPin := rfl
  verbosity := rfl
  linkReady := rfl
  pinsReady := rfl
  hostScript := rfl
  loadBuffer := rfl
  result := rfl
  freeCount := rfl
  acts := ⟨[], by simp [State.pins]⟩
  target := rfl
  errors := by simp
  diag := by rw [log_diag_eq]; exact List.prefix_append _ _

/-- Raising is one error-level diagnostic and nothing else (R262, R263). -/
theorem wire_log_error (e : DiagEvent) (s : State) : Wire s (log .error e s) 0 0 [⟨.error, e⟩] where
  clkPin := rfl
  dioPin := rfl
  verbosity := rfl
  linkReady := rfl
  pinsReady := rfl
  hostScript := rfl
  loadBuffer := rfl
  result := rfl
  freeCount := rfl
  acts := ⟨[], by simp [State.pins]⟩
  target := rfl
  errors := by simp
  diag := by rw [log_diag_eq]; exact List.prefix_append _ _

theorem pinsAfter_writeBits (s : State) (p : Pins) (bs : List Bool) :
    pinsAfter p (bs.flatMap (writeBitActions s)) = (p.1 || !bs.isEmpty, p.2.1, bs.getLastD p.2.2) := by
  induction bs generalizing p with
  | nil => simp
  | cons b bs ih =>
    rw [List.flatMap_cons]
    change pinsAfter (true, p.2.1, b) (bs.flatMap (writeBitActions s)) = _
    rw [ih, List.getLastD_cons]
    simp

theorem pulseCount_writeBits (s : State) (bs : List Bool) :
    pulseCount (bs.flatMap (writeBitActions s)) = bs.length := by
  induction bs with
  | nil => rfl
  | cons b bs ih =>
    have h1 : pulseCount (writeBitActions s b) = 1 := by cases b <;> rfl
    rw [List.flatMap_cons, pulseCount_append, ih, h1, List.length_cons, Nat.add_comm]

theorem clockedBits_writeBits (s : State) (clk : Bool) (mode : DriveMode) (latch : Bool) (bs : List Bool) :
    clockedBits clk mode latch (bs.flatMap (writeBitActions s))
      = bs.map fun b => if mode = .outPP then some b else none := by
  induction bs generalizing clk latch with
  | nil => rfl
  | cons b bs ih =>
    rw [List.flatMap_cons]
    have h := ih true b
    cases mode <;> simp [writeBitActions, pulseActions, clockedBits] <;> simpa using h

theorem pinsAfter_readBits (s : State) (p : Pins) (bs : List Bool) :
    pinsAfter p (bs.flatMap (readBitActions s)) = (p.1 || !bs.isEmpty, p.2.1, p.2.2) := by
  induction bs generalizing p with
  | nil => simp
  | cons b bs ih =>
    rw [List.flatMap_cons]
    change pinsAfter (true, p.2.1, p.2.2) (bs.flatMap (readBitActions s)) = _
    rw [ih]
    simp

theorem pulseCount_readBits (s : State) (bs : List Bool) :
    pulseCount (bs.flatMap (readBitActions s)) = bs.length := by
  induction bs with
  | nil => rfl
  | cons b bs ih =>
    have h1 : pulseCount (readBitActions s b) = 1 := by cases b <;> rfl
    rw [List.flatMap_cons, pulseCount_append, ih, h1, List.length_cons, Nat.add_comm]

theorem clockedBits_readBits_released (s : State) (clk latch : Bool) (bs : List Bool) :
    clockedBits clk .inPU latch (bs.flatMap (readBitActions s)) = List.replicate bs.length none := by
  induction bs generalizing clk with
  | nil => rfl
  | cons b bs ih =>
    rw [List.flatMap_cons]
    have h := ih true
    simpa [readBitActions, pulseActions, clockedBits, List.replicate_succ] using h

/-- Driving bits on the line (R134). -/
theorem wire_driveBits (bs : List Bool) (s : State) : Wire s (driveBits bs s) 0 bs.length [] where
  clkPin := rfl
  dioPin := rfl
  verbosity := rfl
  linkReady := rfl
  pinsReady := rfl
  hostScript := rfl
  loadBuffer := rfl
  result := rfl
  freeCount := rfl
  acts := ⟨_, rfl, by rw [pinsAfter_writeBits]; rfl, pulseCount_writeBits s bs⟩
  target := rfl
  errors := by simp [State.errorEvents]
  diag := List.prefix_refl _

theorem bitsSince_driveBits (bs : List Bool) (s : State) :
    bitsSince s (driveBits bs s) = bs.map fun b => if s.dioMode = .outPP then some b else none := by
  simp [bitsSince, actionsSince, clockedBits_writeBits]

/-- `writeBits(value, n)` (R134). -/
theorem wire_writeBits (v : Word) (n : Nat) (s : State) : Wire s (writeBits v n s) 0 n [] := by
  simpa [writeBits] using (wire_driveBits (lsbBits v n) s).trans (wire_log_trace (.wireWrite v n) _)

theorem bitsSince_writeBits (v : Word) (n : Nat) (s : State) :
    bitsSince s (writeBits v n s) = (lsbBits v n).map fun b => if s.dioMode = .outPP then some b else none := by
  rw [← bitsSince_driveBits]; rfl

@[simp] theorem length_sampledLevels (n : Nat) (s : State) : (sampledLevels n s).length = n := by
  unfold sampledLevels; cases s.dioMode <;> simp

/-- Sampling with the line released (R135, R45). -/
theorem wire_sampleBits (n : Nat) (s : State) (h : s.dioMode = .inPU) : Wire s (sampleBits n s) n n [] where
  clkPin := rfl
  dioPin := rfl
  verbosity := rfl
  linkReady := rfl
  pinsReady := rfl
  hostScript := rfl
  loadBuffer := rfl
  result := rfl
  freeCount := rfl
  acts := by
    refine ⟨_, rfl, ?_, by rw [pulseCount_readBits]; simp⟩
    rw [pinsAfter_readBits]
    have he : (!(sampledLevels n s).isEmpty) = decide (0 < n) := by
      have hl := length_sampledLevels n s
      cases hs : sampledLevels n s with
      | nil => rw [hs] at hl; simp at hl; simp [← hl]
      | cons a l => rw [hs] at hl; simp at hl; simp; omega
    simp [State.pins, he]
  target := by simp [h]
  errors := by simp [State.errorEvents]
  diag := List.prefix_refl _

/-- `readBits(n)` with the line released (R135). -/
theorem wire_readBits (n : Nat) (s : State) (h : s.dioMode = .inPU) : Wire s (readBits n s) n n [] := by
  simpa [readBits] using (wire_sampleBits n s h).trans (wire_log_trace (.wireRead (readValue n s) n) _)

theorem bitsSince_readBits (n : Nat) (s : State) (h : s.dioMode = .inPU) :
    bitsSince s (readBits n s) = List.replicate n none := by
  simp [bitsSince, actionsSince, h, clockedBits_readBits_released]

/-- `readTurnaround()` (R136). -/
theorem wire_readTurnaround (s : State) : Wire s (readTurnaround s) 0 1 [] where
  clkPin := rfl
  dioPin := rfl
  verbosity := rfl
  linkReady := rfl
  pinsReady := rfl
  hostScript := rfl
  loadBuffer := rfl
  result := rfl
  freeCount := rfl
  acts := ⟨_, rfl, rfl, rfl⟩
  target := rfl
  errors := by simp [readTurnaround, State.errorEvents]; split <;> simp [Diag.isError]
  diag := by simp only [readTurnaround, log_diag_eq]; exact List.prefix_append _ _

theorem bitsSince_readTurnaround (s : State) : bitsSince s (readTurnaround s) = [none] := by
  simp [bitsSince, actionsSince, clockedBits, pulseActions]

/-- `writeTurnaround()` (R137). -/
theorem wire_writeTurnaround (s : State) : Wire s (writeTurnaround s) 0 1 [] where
  clkPin := rfl
  dioPin := rfl
  verbosity := rfl
  linkReady := rfl
  pinsReady := rfl
  hostScript := rfl
  loadBuffer := rfl
  result := rfl
  freeCount := rfl
  acts := ⟨_, rfl, rfl, rfl⟩
  target := rfl
  errors := by simp [writeTurnaround, State.errorEvents]; split <;> simp [Diag.isError]
  diag := by simp only [writeTurnaround, log_diag_eq]; exact List.prefix_append _ _

theorem bitsSince_writeTurnaround (s : State) (h : s.dioMode = .inPU) : bitsSince s (writeTurnaround s) = [none] := by
  simp [bitsSince, actionsSince, clockedBits, pulseActions, h]

/-! ### Milestones: no wire primitive makes one -/

@[simp] theorem milestones_writeBits (v : Word) (n : Nat) (s : State) : (writeBits v n s).milestones = s.milestones := by
  rw [writeBits, milestones_log_trace]; rfl

@[simp] theorem milestones_readBits (n : Nat) (s : State) : (readBits n s).milestones = s.milestones := by
  rw [readBits, milestones_log_trace]; rfl

@[simp] theorem milestones_readTurnaround (s : State) : (readTurnaround s).milestones = s.milestones := by
  rw [readTurnaround, milestones_log_trace]; rfl

@[simp] theorem milestones_writeTurnaround (s : State) : (writeTurnaround s).milestones = s.milestones := by
  rw [writeTurnaround, milestones_log_trace]; rfl

/-- While the line is released, the bits read are the levels it shows (R45). -/
theorem readValue_of_levels (n : Nat) (s : State) (ls : List Bool) (h : s.dioMode = .inPU)
    (hl : targetLevels n s.targetScript = ls) : readValue n s = wordOfBits ls := by
  simp [readValue, sampledLevels, h, hl]

end Sys2Proof.Machine
end

