-- ==== Sys2Proof/Laws/Transaction.lean ====
section
/-! SUPPORT. What a DP transaction does for every sequence of answers (41_dp_transaction.md): one attempt of each layout
of 30_encoding.md R104, the WAIT loop by induction on its budget, and the case distinction over the answers. -/

namespace Sys2Proof.Machine

/-- `t` comes from `s` by complete attempts: wire activity with the line framed, the drain as its last actions and no error
reported before them, and what an observer sees of it if the core was driving. -/
structure Done (s t : State) (used pulses : Nat) (errs : List Diag) (bits : List (Option Bool)) : Prop where
  wire : Wire s t used pulses errs
  framed : t.Framed
  idle : ∃ es, t.gpio = s.gpio ++ es ++ idleActions t
  late : ReportsLast s t
  seen : s.dioMode = .outPP → bitsSince s t = bits

theorem idleActions_congr (s t : State) (hc : t.clkPin = s.clkPin) (hd : t.dioPin = s.dioPin) :
    idleActions t = idleActions s := by
  simp [idleActions, writeBitActions, pulseActions, hc, hd]

/-- Complete attempts compose, if the first reported no error. -/
theorem Done.trans {s t u : State} {m n p q : Nat} {es : List Diag} {b c : List (Option Bool)}
    (h : Done s t m p [] b) (k : Done t u n q es c) : Done s u (m + n) (p + q) es (b ++ c) where
  wire := h.wire.trans k.wire
  framed := k.framed
  idle := by
    obtain ⟨x, hx⟩ := k.idle
    obtain ⟨y, hy⟩ := h.wire.gpio
    exact ⟨y ++ x, by rw [hx, ← hy]; simp⟩
  late := h.wire.reportsLast k.late
  seen := fun hm => by rw [h.wire.bitsSince_trans k.wire, h.seen hm, k.seen h.framed.1]

/-- A failure raised after complete attempts adds its diagnostic and nothing else (R262). -/
theorem Done.raised {s t : State} {m p : Nat} {ds : List Diag} {b : List (Option Bool)} (h : Done s t m p ds b)
    (e : DiagEvent) : Done s (log .error e t) m p (ds ++ [⟨.error, e⟩]) b where
  wire := by simpa using h.wire.trans (wire_log_error e t)
  framed := h.framed
  idle := by
    obtain ⟨x, hx⟩ := h.idle
    exact ⟨x, by simpa [idleActions, writeBitActions, pulseActions] using hx⟩
  late := h.late.logged ..
  seen := fun hm => by
    rw [h.wire.bitsSince_trans (wire_log_error e t), h.seen hm]
    simp [bitsSince, actionsSince, clockedBits]

/-- Attempts after a trace event are attempts. -/
theorem Done.after_log {s t : State} {e : DiagEvent} {m p : Nat} {ds : List Diag} {b : List (Option Bool)}
    (h : Done (log .trace e s) t m p ds b) : Done s t m p ds b where
  wire := by simpa using (wire_log_trace e s).trans h.wire
  framed := h.framed
  idle := h.idle
  late := (wire_log_trace e s).reportsLast h.late
  seen := h.seen

/-- Attempts before a trace event are attempts. -/
theorem Done.logged {s t : State} {m p : Nat} {ds : List Diag} {b : List (Option Bool)} (h : Done s t m p ds b)
    (e : DiagEvent) : Done s (log .trace e t) m p ds b where
  wire := by simpa using h.wire.trans (wire_log_trace e t)
  framed := h.framed
  idle := by
    obtain ⟨x, hx⟩ := h.idle
    exact ⟨x, by simpa [idleActions, writeBitActions, pulseActions] using hx⟩
  late := h.late.logged ..
  seen := fun hm => by
    rw [h.wire.bitsSince_trans (wire_log_trace e t), h.seen hm]
    simp [bitsSince, actionsSince, clockedBits]

/-! ### The parts of an attempt -/

theorem lsbBits_header (h : BitVec 8) : lsbBits (h.setWidth 32) 8 = lsbBits h 8 := by
  revert h; decide

theorem wire_sendHeader (addr : Word) (apndp rnw : Bool) (s : State) :
    Wire s (sendHeader Config.params addr apndp rnw s) 0 9 [] :=
  (wire_writeBits _ 8 s).trans (wire_readTurnaround _)

@[simp] theorem sendHeader_dioMode (addr : Word) (apndp rnw : Bool) (s : State) :
    (sendHeader Config.params addr apndp rnw s).dioMode = .inPU := rfl

@[simp] theorem sendHeader_selcache (addr : Word) (apndp rnw : Bool) (s : State) :
    (sendHeader Config.params addr apndp rnw s).selcache = s.selcache := rfl

@[simp] theorem sendHeader_targetScript (addr : Word) (apndp rnw : Bool) (s : State) :
    (sendHeader Config.params addr apndp rnw s).targetScript = s.targetScript := rfl

theorem bitsSince_sendHeader (addr : Word) (apndp rnw : Bool) (s : State) (h : s.dioMode = .outPP) :
    bitsSince s (sendHeader Config.params addr apndp rnw s)
      = (lsbBits (packHeader addr apndp rnw) 8).map some ++ [none] := by
  rw [sendHeader, params_headerBits, (wire_writeBits _ 8 s).bitsSince_trans (wire_readTurnaround _),
    bitsSince_writeBits, bitsSince_readTurnaround, lsbBits_header]
  simp [h]

/-- The acknowledge is the three levels the target shows (R99). -/
theorem ackValue_eq (addr : Word) (apndp rnw : Bool) (s : State) (a : BitVec 3)
    (h : targetLevels 3 s.targetScript = ackLevels a) :
    ackValue Config.params (sendHeader Config.params addr apndp rnw s) = a := by
  rw [ackValue, params_ackBits, readValue_of_levels 3 (sendHeader Config.params addr apndp rnw s) (ackLevels a)
    (sendHeader_dioMode ..) h, ackLevels, wordOfBits_lsbBits_setWidth a 3 (Nat.le_refl 3)]
  simp

/-! ### The drain -/

theorem drain_eq (s : State) : drain Config.params s = writeBits 0 8 s := rfl

theorem lsbBits_idle : lsbBits (0 : Word) 8 = List.replicate 8 false := by decide

@[simp] theorem drain_dioMode (s : State) : (drain Config.params s).dioMode = s.dioMode := by simp [drain_eq]

@[simp] theorem drain_selcache (s : State) : (drain Config.params s).selcache = s.selcache := by simp [drain_eq]

@[simp] theorem drain_targetScript (s : State) : (drain Config.params s).targetScript = s.targetScript := by
  simp [drain_eq]

/-- The drain (R166): 8 pulses. -/
theorem wire_drain (s : State) : Wire s (drain Config.params s) 0 8 [] := wire_writeBits 0 8 s

theorem bitsSince_drain (s : State) (h : s.dioMode = .outPP) :
    bitsSince s (drain Config.params s) = List.replicate 8 (some false) := by
  rw [drain_eq, bitsSince_writeBits, lsbBits_idle]
  simp [h]

/-- After the drain the line is framed, if the core drives it. -/
theorem framed_drain (s : State) (h : s.dioMode = .outPP) : (drain Config.params s).Framed := by
  rw [drain_eq]
  refine ⟨h, ?_, by simp [isEmpty_lsbBits]⟩
  rw [writeBits_dioLatch, lsbBits_idle]
  rfl

theorem gpio_drain (s : State) : (drain Config.params s).gpio = s.gpio ++ idleActions (drain Config.params s) := by
  rw [drain_eq, writeBits_gpio, lsbBits_idle]
  rfl

/-- Wire activity that ends with the core driving, followed by the drain, is a complete attempt. -/
theorem done_of_wire {s t : State} {m p : Nat} {bits : List (Option Bool)} (h : Wire s t m p [])
    (hm : t.dioMode = .outPP) (hb : s.dioMode = .outPP → bitsSince s t = bits) :
    Done s (drain Config.params t) m (p + 8) [] (bits ++ List.replicate 8 (some false)) where
  wire := by simpa using h.trans (wire_drain t)
  framed := framed_drain t hm
  idle := by
    obtain ⟨x, hx⟩ := h.gpio
    exact ⟨x, by rw [gpio_drain, hx]⟩
  late := (h.trans (wire_drain t)).reportsLast (.refl _)
  seen := fun h0 => by rw [h.bitsSince_trans (wire_drain t), hb h0, bitsSince_drain t hm]

/-! ### The attempts -/

/-- The acknowledge sampled, the line still released. -/
def acked (addr : Word) (apndp rnw : Bool) (s : State) : State :=
  readBits 3 (sendHeader Config.params addr apndp rnw s)

@[simp] theorem acked_dioMode (addr : Word) (apndp rnw : Bool) (s : State) :
    (acked addr apndp rnw s).dioMode = .inPU := by simp [acked]

@[simp] theorem acked_selcache (addr : Word) (apndp rnw : Bool) (s : State) :
    (acked addr apndp rnw s).selcache = s.selcache := by simp [acked]

@[simp] theorem acked_targetScript (addr : Word) (apndp rnw : Bool) (s : State) :
    (acked addr apndp rnw s).targetScript = s.targetScript.drop 3 := by simp [acked]

theorem wire_acked (addr : Word) (apndp rnw : Bool) (s : State) : Wire s (acked addr apndp rnw s) 3 12 [] :=
  (wire_sendHeader addr apndp rnw s).trans (wire_readBits 3 _ (sendHeader_dioMode ..))

theorem bitsSince_acked (addr : Word) (apndp rnw : Bool) (s : State) (h : s.dioMode = .outPP) :
    bitsSince s (acked addr apndp rnw s)
      = (lsbBits (packHeader addr apndp rnw) 8).map some ++ List.replicate 4 none := by
  rw [acked, (wire_sendHeader addr apndp rnw s).bitsSince_trans (wire_readBits 3 _ (sendHeader_dioMode ..)),
    bitsSince_sendHeader _ _ _ _ h, bitsSince_readBits 3 _ (sendHeader_dioMode ..), List.append_assoc]
  rfl

/-- Header, acknowledge and write-turnaround: 13 pulses, after which the core drives again (R164, R167). -/
def answered (addr : Word) (apndp rnw : Bool) (s : State) : State :=
  writeTurnaround (acked addr apndp rnw s)

@[simp] theorem answered_dioMode (addr : Word) (apndp rnw : Bool) (s : State) :
    (answered addr apndp rnw s).dioMode = .outPP := rfl

@[simp] theorem answered_selcache (addr : Word) (apndp rnw : Bool) (s : State) :
    (answered addr apndp rnw s).selcache = s.selcache := by simp [answered]

@[simp] theorem answered_targetScript (addr : Word) (apndp rnw : Bool) (s : State) :
    (answered addr apndp rnw s).targetScript = s.targetScript.drop 3 := by simp [answered]

theorem wire_answered (addr : Word) (apndp rnw : Bool) (s : State) : Wire s (answered addr apndp rnw s) 3 13 [] :=
  (wire_acked addr apndp rnw s).trans (wire_writeTurnaround _)

theorem bitsSince_answered (addr : Word) (apndp rnw : Bool) (s : State) (h : s.dioMode = .outPP) :
    bitsSince s (answered addr apndp rnw s)
      = (lsbBits (packHeader addr apndp rnw) 8).map some ++ List.replicate 5 none := by
  rw [answered, (wire_acked addr apndp rnw s).bitsSince_trans (wire_writeTurnaround _), bitsSince_acked _ _ _ _ h,
    bitsSince_writeTurnaround _ (acked_dioMode ..), List.append_assoc]
  rfl

/-- An attempt without a data phase (third layout of R104). -/
theorem done_short (addr : Word) (apndp rnw : Bool) (s : State) :
    Done s (drain Config.params (answered addr apndp rnw s)) 3 21 [] (shortAttempt (packHeader addr apndp rnw)) :=
  done_of_wire (wire_answered addr apndp rnw s) (answered_dioMode ..)
    (bitsSince_answered addr apndp rnw s)

/-- The data and parity bits of a write on the line. -/
def dataSent (data : Word) (s : State) : State :=
  writeBits ((BitVec.ofBool (evenParity data)).setWidth 32) 1 (writeBits data 32 s)

theorem sendData_eq (data : Word) (s : State) :
    sendData Config.params data s = drain Config.params (dataSent data s) := rfl

theorem wire_dataSent (data : Word) (s : State) : Wire s (dataSent data s) 0 33 [] :=
  (wire_writeBits data 32 s).trans (wire_writeBits _ 1 _)

theorem bitsSince_dataSent (data : Word) (s : State) (h : s.dioMode = .outPP) :
    bitsSince s (dataSent data s) = (lsbBits data 32 ++ [evenParity data]).map some := by
  have hp : lsbBits ((BitVec.ofBool (evenParity data)).setWidth 32) 1 = [evenParity data] := by
    cases evenParity data <;> rfl
  rw [dataSent, (wire_writeBits data 32 s).bitsSince_trans (wire_writeBits _ 1 _), bitsSince_writeBits,
    bitsSince_writeBits, hp]
  simp [h]

/-- A write attempt answered OK (first layout of R104). -/
theorem done_write (addr : Word) (apndp : Bool) (data : Word) (s : State) :
    Done s (sendData Config.params data (answered addr apndp false s)) 3 54 []
      (writeAttempt (packHeader addr apndp false) data) := by
  have h := done_of_wire ((wire_answered addr apndp false s).trans (wire_dataSent data _)) (by simp [dataSent])
    (fun h => ((wire_answered addr apndp false s).bitsSince_trans (wire_dataSent data _)).trans
      (by rw [bitsSince_answered _ _ _ _ h, bitsSince_dataSent _ _ (answered_dioMode ..)]))
  rw [sendData_eq]
  simpa [writeAttempt] using h

/-- Header, acknowledge, data and parity: 45 pulses, the line still released (R173). -/
def dataRead (addr : Word) (apndp : Bool) (s : State) : State :=
  readBits 1 (readBits 32 (acked addr apndp true s))

@[simp] theorem dataRead_dioMode (addr : Word) (apndp : Bool) (s : State) :
    (dataRead addr apndp s).dioMode = .inPU := by simp [dataRead]

@[simp] theorem dataRead_selcache (addr : Word) (apndp : Bool) (s : State) :
    (dataRead addr apndp s).selcache = s.selcache := by simp [dataRead]

theorem wire_dataRead (addr : Word) (apndp : Bool) (s : State) : Wire s (dataRead addr apndp s) 36 45 [] :=
  ((wire_acked addr apndp true s).trans (wire_readBits 32 _ (by simp))).trans (wire_readBits 1 _ (by simp))

theorem bitsSince_dataRead (addr : Word) (apndp : Bool) (s : State) (h : s.dioMode = .outPP) :
    bitsSince s (dataRead addr apndp s)
      = (lsbBits (packHeader addr apndp true) 8).map some ++ List.replicate 37 none := by
  have h1 : (readBits 32 (acked addr apndp true s)).dioMode = .inPU := by simp
  rw [dataRead, ((wire_acked addr apndp true s).trans (wire_readBits 32 _ (acked_dioMode ..))).bitsSince_trans
      (wire_readBits 1 _ h1), (wire_acked addr apndp true s).bitsSince_trans (wire_readBits 32 _ (acked_dioMode ..)),
    bitsSince_acked _ _ _ _ h, bitsSince_readBits 32 _ (acked_dioMode ..), bitsSince_readBits 1 _ h1,
    List.append_assoc, List.append_assoc]
  rfl

/-- A read attempt answered OK (second layout of R104). -/
theorem done_read (addr : Word) (apndp : Bool) (s : State) :
    Done s (drain Config.params (writeTurnaround (dataRead addr apndp s))) 36 54 []
      (readAttempt (packHeader addr apndp true)) := by
  have h := done_of_wire ((wire_dataRead addr apndp s).trans (wire_writeTurnaround _)) (by simp)
    (fun h => ((wire_dataRead addr apndp s).bitsSince_trans (wire_writeTurnaround _)).trans
      (by rw [bitsSince_dataRead _ _ _ h, bitsSince_writeTurnaround _ (dataRead_dioMode ..), List.append_assoc]))
  exact h

/-! ### Levels -/

@[simp] theorem length_ackLevels (a : BitVec 3) : (ackLevels a).length = 3 := by simp [ackLevels]

@[simp] theorem length_waitLevels (k : Nat) : (waitLevels k).length = 3 * k := by
  simp [waitLevels, Nat.mul_comm]

@[simp] theorem waitLevels_zero : waitLevels 0 = [] := rfl

theorem waitLevels_succ (k : Nat) : waitLevels (k + 1) = ackLevels Config.params.ackWait ++ waitLevels k := by
  simp [waitLevels, List.replicate_succ]

@[simp] theorem length_writeAnswer (k : Nat) : (writeAnswer k).length = 3 * k + 3 := by simp [writeAnswer]

@[simp] theorem length_readAnswerWith (k : Nat) (w : Word) (p : Bool) :
    (readAnswerWith k w p).length = 3 * k + 36 := by
  simp [readAnswerWith]

@[simp] theorem length_readAnswer (k : Nat) (w : Word) : (readAnswer k w).length = 3 * k + 36 := by simp [readAnswer]

/-- Three levels and then more. -/
theorem shows_ack_append (a : BitVec 3) (ls : List Bool) (l : List (Option Bool)) :
    targetLevels (ackLevels a ++ ls).length l = ackLevels a ++ ls ↔
      targetLevels 3 l = ackLevels a ∧ targetLevels ls.length (l.drop 3) = ls := by
  rw [targetLevels_append_iff, length_ackLevels]

theorem shows_append (s : State) (a b : List Bool) :
    s.shows (a ++ b) ↔ s.shows a ∧ targetLevels b.length (s.targetScript.drop a.length) = b :=
  targetLevels_append_iff a b s.targetScript

/-- A script that drives the levels shows them (R44). -/
theorem shows_of_script (s : State) (ls : List Bool) (rest : List (Option Bool))
    (h : s.targetScript = ls.map some ++ rest) : s.shows ls := by
  rw [State.shows, h]
  exact targetLevels_map_some ls rest

/-- What is shown after the levels `a` have been used up. -/
theorem State.shows.after {s t : State} {a b : List Bool} {n : Nat} (h : s.shows (a ++ b))
    (ht : t.targetScript = s.targetScript.drop n) (hn : n = a.length) : t.shows b := by
  subst hn
  rw [State.shows, ht]
  exact ((shows_append _ _ _).mp h).2

/-! ### The WAIT loop -/

/-- One WAIT of a write: a short attempt, and one attempt less (R170). -/
theorem dpWriteLoop_wait (addr : Word) (apndp : Bool) (data : Word) (b : Nat) (s : State)
    (h : targetLevels 3 s.targetScript = ackLevels Config.params.ackWait) :
    dpWriteLoop Config.params addr apndp data (b + 1) s
      = dpWriteLoop Config.params addr apndp data b (drain Config.params (answered addr apndp false s)) := by
  rw [dpWriteLoop]
  simp only [ackValue_eq addr apndp false s _ h]
  rfl

theorem dpWriteLoop_ok (addr : Word) (apndp : Bool) (data : Word) (b : Nat) (s : State)
    (h : targetLevels 3 s.targetScript = ackLevels Config.params.ackOk) :
    dpWriteLoop Config.params addr apndp data (b + 1) s
      = (.ok (), sendData Config.params data (answered addr apndp false s)) := by
  rw [dpWriteLoop]
  simp only [ackValue_eq addr apndp false s _ h]
  rfl

/-- The failure an acknowledge other than OK and WAIT raises (R171, R172). -/
def ackFailure (request : Request) (a : BitVec 3) : Failure :=
  if a = Config.params.ackFault then .protocolFault request else .protocolError request a

theorem dpWriteLoop_other (addr : Word) (apndp : Bool) (data : Word) (b : Nat) (s : State) (a : BitVec 3)
    (h : targetLevels 3 s.targetScript = ackLevels a) (h1 : a ≠ Config.params.ackOk)
    (h2 : a ≠ Config.params.ackWait) :
    dpWriteLoop Config.params addr apndp data (b + 1) s
      = raise (ackFailure ⟨addr, apndp, .write data⟩ a) (drain Config.params (answered addr apndp false s)) := by
  rw [dpWriteLoop]
  simp only [ackValue_eq addr apndp false s _ h]
  by_cases h3 : a = Config.params.ackFault
  · simp only [classify, ackFailure, if_neg h1, if_neg h2, if_pos h3]; rfl
  · simp only [classify, ackFailure, if_neg h1, if_neg h2, if_neg h3]; rfl

theorem dpReadLoop_wait (addr : Word) (apndp : Bool) (b : Nat) (s : State)
    (h : targetLevels 3 s.targetScript = ackLevels Config.params.ackWait) :
    dpReadLoop Config.params addr apndp (b + 1) s
      = dpReadLoop Config.params addr apndp b (drain Config.params (answered addr apndp true s)) := by
  rw [dpReadLoop]
  simp only [ackValue_eq addr apndp true s _ h]
  rfl

theorem dpReadLoop_other (addr : Word) (apndp : Bool) (b : Nat) (s : State) (a : BitVec 3)
    (h : targetLevels 3 s.targetScript = ackLevels a) (h1 : a ≠ Config.params.ackOk)
    (h2 : a ≠ Config.params.ackWait) :
    dpReadLoop Config.params addr apndp (b + 1) s
      = raise (ackFailure ⟨addr, apndp, .read⟩ a) (drain Config.params (answered addr apndp true s)) := by
  rw [dpReadLoop]
  simp only [ackValue_eq addr apndp true s _ h]
  by_cases h3 : a = Config.params.ackFault
  · simp only [classify, ackFailure, if_neg h1, if_neg h2, if_pos h3]; rfl
  · simp only [classify, ackFailure, if_neg h1, if_neg h2, if_neg h3]; rfl

theorem dpReadLoop_ok (addr : Word) (apndp : Bool) (b : Nat) (s : State) (w : Word) (p : Bool)
    (h : targetLevels 36 s.targetScript = ackLevels Config.params.ackOk ++ lsbBits w 32 ++ [p]) :
    dpReadLoop Config.params addr apndp (b + 1) s
      = if p = evenParity w then (.ok w, drain Config.params (writeTurnaround (dataRead addr apndp s)))
        else raise (.parityError addr apndp) (drain Config.params (writeTurnaround (dataRead addr apndp s))) := by
  have h0 : targetLevels (ackLevels Config.params.ackOk ++ (lsbBits w 32 ++ [p])).length s.targetScript
      = ackLevels Config.params.ackOk ++ (lsbBits w 32 ++ [p]) := by simpa using h
  obtain ⟨ha, h1⟩ := (shows_ack_append _ _ _).mp h0
  obtain ⟨hd, hp⟩ := (targetLevels_append_iff _ _ _).mp h1
  have e1 : readValue 32 (readBits 3 (sendHeader Config.params addr apndp true s)) = w := by
    rw [readValue_of_levels 32 _ (lsbBits w 32) (by simp) (by simpa using hd), wordOfBits_lsbBits]
  have e2 : readValue 1 (readBits 32 (readBits 3 (sendHeader Config.params addr apndp true s))) = wordOfBits [p] :=
    readValue_of_levels 1 _ [p] (by simp) (by simpa using hp)
  have e3 : (wordOfBits [p]).getLsbD 0 = p := by cases p <;> rfl
  rw [dpReadLoop]
  simp only [ackValue_eq addr apndp true s _ ha, params_ackBits, params_dataBits, e1, e2, e3]
  rfl

/-- What a write transaction does when it is answered OK within its budget. -/
theorem dpWriteLoop_succeeds (addr : Word) (apndp : Bool) (data : Word) (b k : Nat) (hk : k < b) (s : State)
    (h : s.shows (writeAnswer k)) :
    ∃ t, dpWriteLoop Config.params addr apndp data b s = (.ok (), t) ∧
      Done s t (3 * k + 3) (21 * k + 54) [] (writeTransaction (packHeader addr apndp false) data k) := by
  induction k generalizing b s with
  | zero =>
    obtain ⟨b, rfl⟩ : ∃ b', b = b' + 1 := ⟨b - 1, by omega⟩
    exact ⟨_, dpWriteLoop_ok addr apndp data b s h, by simpa [writeTransaction, shortAttempts] using done_write ..⟩
  | succ k ih =>
    obtain ⟨b, rfl⟩ : ∃ b', b = b' + 1 := ⟨b - 1, by omega⟩
    rw [writeAnswer, waitLevels_succ, List.append_assoc] at h
    obtain ⟨h1, h2⟩ := (shows_ack_append _ _ _).mp h
    obtain ⟨t, ht, hd⟩ := ih b (by omega) (drain Config.params (answered addr apndp false s)) h2
    refine ⟨t, (dpWriteLoop_wait addr apndp data b s h1).trans ht, ?_⟩
    have := (done_short addr apndp false s).trans hd
    have e1 : 3 + (3 * k + 3) = 3 * (k + 1) + 3 := by omega
    have e2 : 21 + (21 * k + 54) = 21 * (k + 1) + 54 := by omega
    rw [e1, e2] at this
    simpa [writeTransaction, shortAttempts, List.replicate_succ] using this

/-- What it does when it is answered otherwise within its budget. -/
theorem dpWriteLoop_fails (addr : Word) (apndp : Bool) (data : Word) (b k : Nat) (hk : k < b) (s : State) (a : BitVec 3)
    (h1 : a ≠ Config.params.ackOk) (h2 : a ≠ Config.params.ackWait) (h : s.shows (waitLevels k ++ ackLevels a)) :
    ∃ t, dpWriteLoop Config.params addr apndp data b s = (.error (ackFailure ⟨addr, apndp, .write data⟩ a).kind, t) ∧
      Done s t (3 * k + 3) (21 * (k + 1)) [⟨.error, .failure (ackFailure ⟨addr, apndp, .write data⟩ a)⟩]
        (shortAttempts (packHeader addr apndp false) (k + 1)) := by
  induction k generalizing b s with
  | zero =>
    obtain ⟨b, rfl⟩ : ∃ b', b = b' + 1 := ⟨b - 1, by omega⟩
    exact ⟨_, dpWriteLoop_other addr apndp data b s a h h1 h2, by
      simpa [shortAttempts] using (done_short addr apndp false s).raised _⟩
  | succ k ih =>
    obtain ⟨b, rfl⟩ : ∃ b', b = b' + 1 := ⟨b - 1, by omega⟩
    rw [waitLevels_succ, List.append_assoc] at h
    obtain ⟨h3, h4⟩ := (shows_ack_append _ _ _).mp h
    obtain ⟨t, ht, hd⟩ := ih b (by omega) (drain Config.params (answered addr apndp false s)) h4
    refine ⟨t, (dpWriteLoop_wait addr apndp data b s h3).trans ht, ?_⟩
    have := (done_short addr apndp false s).trans hd
    have e1 : 3 + (3 * k + 3) = 3 * (k + 1) + 3 := by omega
    have e2 : 21 + 21 * (k + 1) = 21 * (k + 1 + 1) := by omega
    rw [e1, e2] at this
    simpa [shortAttempts, List.replicate_succ] using this

/-- What it does when every attempt of its budget is answered WAIT. -/
theorem dpWriteLoop_times_out (addr : Word) (apndp : Bool) (data : Word) (b : Nat) (hb : 0 < b) (s : State)
    (h : s.shows (waitLevels b)) :
    ∃ t, dpWriteLoop Config.params addr apndp data b s = (.error .waitTimeout, t) ∧
      Done s t (3 * b) (21 * b) [⟨.error, .failure (.waitTimeout ⟨addr, apndp, .write data⟩)⟩]
        (shortAttempts (packHeader addr apndp false) b) := by
  induction b generalizing s with
  | zero => omega
  | succ b ih =>
    rw [waitLevels_succ] at h
    obtain ⟨h1, h2⟩ := (shows_ack_append _ _ _).mp h
    rcases Nat.eq_zero_or_pos b with rfl | hb
    · refine ⟨_, dpWriteLoop_wait addr apndp data 0 s h1, ?_⟩
      simpa [shortAttempts] using
        (done_short addr apndp false s).raised (.failure (.waitTimeout ⟨addr, apndp, .write data⟩))
    · obtain ⟨t, ht, hd⟩ := ih hb (drain Config.params (answered addr apndp false s)) h2
      refine ⟨t, (dpWriteLoop_wait addr apndp data b s h1).trans ht, ?_⟩
      have := (done_short addr apndp false s).trans hd
      have e1 : 3 + 3 * b = 3 * (b + 1) := by omega
      have e2 : 21 + 21 * b = 21 * (b + 1) := by omega
      rw [e1, e2] at this
      simpa [shortAttempts, List.replicate_succ] using this

/-- What a read transaction does when it is answered OK within its budget: the word, or ParityError. -/
theorem dpReadLoop_answered (addr : Word) (apndp : Bool) (b k : Nat) (hk : k < b) (s : State) (w : Word) (p : Bool)
    (h : s.shows (readAnswerWith k w p)) :
    ∃ t, (dpReadLoop Config.params addr apndp b s =
        if p = evenParity w then (.ok w, t) else (.error .parityError, t)) ∧
      Done s t (3 * k + 36) (21 * k + 54)
        (if p = evenParity w then [] else [⟨.error, .failure (.parityError addr apndp)⟩])
        (readTransaction (packHeader addr apndp true) k) := by
  induction k generalizing b s with
  | zero =>
    obtain ⟨b, rfl⟩ : ∃ b', b = b' + 1 := ⟨b - 1, by omega⟩
    rw [dpReadLoop_ok addr apndp b s w p (by simpa [State.shows, readAnswerWith] using h)]
    by_cases hp : p = evenParity w
    · exact ⟨drain Config.params (writeTurnaround (dataRead addr apndp s)), by simp only [if_pos hp],
        by simpa [hp, readTransaction, shortAttempts] using done_read addr apndp s⟩
    · refine ⟨log .error (.failure (.parityError addr apndp))
        (drain Config.params (writeTurnaround (dataRead addr apndp s))), by simp only [if_neg hp]; rfl, ?_⟩
      simpa [hp, readTransaction, shortAttempts] using
        (done_read addr apndp s).raised (.failure (.parityError addr apndp))
  | succ k ih =>
    obtain ⟨b, rfl⟩ : ∃ b', b = b' + 1 := ⟨b - 1, by omega⟩
    rw [readAnswerWith, waitLevels_succ, List.append_assoc, List.append_assoc, List.append_assoc] at h
    obtain ⟨h1, h2⟩ := (shows_ack_append _ _ _).mp h
    obtain ⟨t, ht, hd⟩ := ih b (by omega) (drain Config.params (answered addr apndp true s)) (by
      rw [readAnswerWith, List.append_assoc, List.append_assoc]; exact h2)
    refine ⟨t, (dpReadLoop_wait addr apndp b s h1).trans ht, ?_⟩
    have := (done_short addr apndp true s).trans hd
    have e1 : 3 + (3 * k + 36) = 3 * (k + 1) + 36 := by omega
    have e2 : 21 + (21 * k + 54) = 21 * (k + 1) + 54 := by omega
    rw [e1, e2] at this
    simpa [readTransaction, shortAttempts, List.replicate_succ] using this

theorem dpReadLoop_fails (addr : Word) (apndp : Bool) (b k : Nat) (hk : k < b) (s : State) (a : BitVec 3)
    (h1 : a ≠ Config.params.ackOk) (h2 : a ≠ Config.params.ackWait) (h : s.shows (waitLevels k ++ ackLevels a)) :
    ∃ t, dpReadLoop Config.params addr apndp b s = (.error (ackFailure ⟨addr, apndp, .read⟩ a).kind, t) ∧
      Done s t (3 * k + 3) (21 * (k + 1)) [⟨.error, .failure (ackFailure ⟨addr, apndp, .read⟩ a)⟩]
        (shortAttempts (packHeader addr apndp true) (k + 1)) := by
  induction k generalizing b s with
  | zero =>
    obtain ⟨b, rfl⟩ : ∃ b', b = b' + 1 := ⟨b - 1, by omega⟩
    exact ⟨_, dpReadLoop_other addr apndp b s a h h1 h2, by
      simpa [shortAttempts] using (done_short addr apndp true s).raised _⟩
  | succ k ih =>
    obtain ⟨b, rfl⟩ : ∃ b', b = b' + 1 := ⟨b - 1, by omega⟩
    rw [waitLevels_succ, List.append_assoc] at h
    obtain ⟨h3, h4⟩ := (shows_ack_append _ _ _).mp h
    obtain ⟨t, ht, hd⟩ := ih b (by omega) (drain Config.params (answered addr apndp true s)) h4
    refine ⟨t, (dpReadLoop_wait addr apndp b s h3).trans ht, ?_⟩
    have := (done_short addr apndp true s).trans hd
    have e1 : 3 + (3 * k + 3) = 3 * (k + 1) + 3 := by omega
    have e2 : 21 + 21 * (k + 1) = 21 * (k + 1 + 1) := by omega
    rw [e1, e2] at this
    simpa [shortAttempts, List.replicate_succ] using this

theorem dpReadLoop_times_out (addr : Word) (apndp : Bool) (b : Nat) (hb : 0 < b) (s : State)
    (h : s.shows (waitLevels b)) :
    ∃ t, dpReadLoop Config.params addr apndp b s = (.error .waitTimeout, t) ∧
      Done s t (3 * b) (21 * b) [⟨.error, .failure (.waitTimeout ⟨addr, apndp, .read⟩)⟩]
        (shortAttempts (packHeader addr apndp true) b) := by
  induction b generalizing s with
  | zero => omega
  | succ b ih =>
    rw [waitLevels_succ] at h
    obtain ⟨h1, h2⟩ := (shows_ack_append _ _ _).mp h
    rcases Nat.eq_zero_or_pos b with rfl | hb
    · refine ⟨_, dpReadLoop_wait addr apndp 0 s h1, ?_⟩
      simpa [shortAttempts] using
        (done_short addr apndp true s).raised (.failure (.waitTimeout ⟨addr, apndp, .read⟩))
    · obtain ⟨t, ht, hd⟩ := ih hb (drain Config.params (answered addr apndp true s)) h2
      refine ⟨t, (dpReadLoop_wait addr apndp b s h1).trans ht, ?_⟩
      have := (done_short addr apndp true s).trans hd
      have e1 : 3 + 3 * b = 3 * (b + 1) := by omega
      have e2 : 21 + 21 * b = 21 * (b + 1) := by omega
      rw [e1, e2] at this
      simpa [shortAttempts, List.replicate_succ] using this

/-! ### The answers, case by case -/

/-- Whatever the target answers, some number of WAITs within the budget is followed by something else, or the whole
budget is answered WAIT (R178). -/
theorem answers_cases (b : Nat) (l : List (Option Bool)) :
    (∃ k a, k < b ∧ a ≠ Config.params.ackWait ∧
      targetLevels (waitLevels k ++ ackLevels a).length l = waitLevels k ++ ackLevels a) ∨
    targetLevels (waitLevels b).length l = waitLevels b := by
  induction b generalizing l with
  | zero => exact .inr rfl
  | succ b ih =>
    obtain ⟨a, ha⟩ := exists_lsbBits_three (targetLevels 3 l) (by simp)
    by_cases hw : a = Config.params.ackWait
    · subst hw
      rcases ih (l.drop 3) with ⟨k, a, hk, hne, h⟩ | h
      · refine .inl ⟨k + 1, a, by omega, hne, ?_⟩
        rw [waitLevels_succ, List.append_assoc]
        exact (shows_ack_append _ _ _).mpr ⟨ha, h⟩
      · right
        rw [waitLevels_succ]
        exact (shows_ack_append _ _ _).mpr ⟨ha, h⟩
    · exact .inl ⟨0, a, by omega, hw, ha⟩

/-! ### Frames: what no transaction touches, whatever is answered -/

@[simp] theorem raise_selcache {α : Type} (f : Failure) (s : State) : (raise f s : Run α).2.selcache = s.selcache := rfl

/-- A DP write never touches the selection cache (R163). -/
@[simp] theorem dpWriteLoop_selcache (addr : Word) (apndp : Bool) (data : Word) (b : Nat) (s : State) :
    (dpWriteLoop Config.params addr apndp data b s).2.selcache = s.selcache := by
  induction b generalizing s with
  | zero => rfl
  | succ b ih =>
    rw [dpWriteLoop]
    split <;> simp [ih, sendData_eq, dataSent]

/-- A DP read never touches the selection cache (R163). -/
@[simp] theorem dpReadLoop_selcache (addr : Word) (apndp : Bool) (b : Nat) (s : State) :
    (dpReadLoop Config.params addr apndp b s).2.selcache = s.selcache := by
  induction b generalizing s with
  | zero => rfl
  | succ b ih =>
    rw [dpReadLoop]
    split
    · simp only; split <;> simp
    all_goals simp [ih]

@[simp] theorem dpWrite_selcache (addr : Word) (apndp : Bool) (data : Word) (s : State) :
    (dpWrite Config.params addr apndp data s).2.selcache = s.selcache := by simp [dpWrite]

@[simp] theorem dpRead_selcache (addr : Word) (apndp : Bool) (s : State) :
    (dpRead Config.params addr apndp s).2.selcache = s.selcache := by simp [dpRead]

@[simp] theorem drain_milestones (s : State) : (drain Config.params s).milestones = s.milestones := by simp [drain_eq]

@[simp] theorem sendHeader_milestones (addr : Word) (apndp rnw : Bool) (s : State) :
    (sendHeader Config.params addr apndp rnw s).milestones = s.milestones := by simp [sendHeader]

@[simp] theorem raise_milestones {α : Type} (f : Failure) (s : State) :
    (raise f s : Run α).2.milestones = s.milestones := by simp [raise]

theorem dpWriteLoop_milestones (addr : Word) (apndp : Bool) (data : Word) (b : Nat) (s : State) :
    (dpWriteLoop Config.params addr apndp data b s).2.milestones = s.milestones := by
  induction b generalizing s with
  | zero => simp [dpWriteLoop]
  | succ b ih =>
    rw [dpWriteLoop]
    split <;> simp [ih, sendData_eq, dataSent]

theorem dpReadLoop_milestones (addr : Word) (apndp : Bool) (b : Nat) (s : State) :
    (dpReadLoop Config.params addr apndp b s).2.milestones = s.milestones := by
  induction b generalizing s with
  | zero => simp [dpReadLoop]
  | succ b ih =>
    rw [dpReadLoop]
    split
    · simp only; split <;> simp
    all_goals simp [ih]

@[simp] theorem dpWrite_milestones (addr : Word) (apndp : Bool) (data : Word) (s : State) :
    (dpWrite Config.params addr apndp data s).2.milestones = s.milestones := by simp [dpWrite, dpWriteLoop_milestones]

@[simp] theorem dpRead_milestones (addr : Word) (apndp : Bool) (s : State) :
    (dpRead Config.params addr apndp s).2.milestones = s.milestones := by simp [dpRead, dpReadLoop_milestones]

/-! ### The transactions: one law for success, one for failure, one for every case -/

/-- `dpWrite` answered OK within its budget (R168, R169, R178). -/
theorem dpWrite_succeeds (addr : Word) (apndp : Bool) (data : Word) (k : Nat) (hk : k < Config.params.waitAttempts)
    (s : State) (h : s.shows (writeAnswer k)) :
    ∃ t, dpWrite Config.params addr apndp data s = (.ok (), t) ∧
      Done s t (3 * k + 3) (transactionPulses k) [] (writeTransaction (packHeader addr apndp false) data k) := by
  obtain ⟨t, ht, hd⟩ := dpWriteLoop_succeeds addr apndp data Config.params.waitAttempts k hk
    (log .trace (.transaction ⟨addr, apndp, .write data⟩) s) h
  exact ⟨t, ht, hd.after_log⟩

/-- `dpWrite` failing by its acknowledge (R170 to R172, R178). -/
theorem dpWrite_fails (addr : Word) (apndp : Bool) (data : Word) (ls : List Bool) (e : ErrorKind) (n : Nat)
    (ha : AckFailure ls e n) (s : State) (h : s.shows ls) :
    ∃ f t, dpWrite Config.params addr apndp data s = (.error e, t) ∧ f.kind = e ∧
      Done s t ls.length n [⟨.error, .failure f⟩] (failedWrite (packHeader addr apndp false) n) := by
  have hs : (log .trace (.transaction ⟨addr, apndp, .write data⟩) s).shows ls := h
  cases ha with
  | fault k hk =>
    obtain ⟨t, ht, hd⟩ := dpWriteLoop_fails addr apndp data _ k hk _ _ (by decide) (by decide) hs
    exact ⟨_, t, ht, rfl, by simpa [failedWrite] using hd.after_log⟩
  | invalid k a hk hc =>
    have h1 : a ≠ Config.params.ackOk := by rintro rfl; exact absurd hc (by decide)
    have h2 : a ≠ Config.params.ackWait := by rintro rfl; exact absurd hc (by decide)
    have h3 : a ≠ Config.params.ackFault := by rintro rfl; exact absurd hc (by decide)
    obtain ⟨t, ht, hd⟩ := dpWriteLoop_fails addr apndp data _ k hk _ a h1 h2 hs
    rw [ackFailure, if_neg h3] at ht hd
    exact ⟨_, t, ht, rfl, by simpa [failedWrite] using hd.after_log⟩
  | timeout =>
    obtain ⟨t, ht, hd⟩ := dpWriteLoop_times_out addr apndp data _ (by decide) _ hs
    exact ⟨_, t, ht, rfl, by simpa [failedWrite] using hd.after_log⟩

/-- `dpRead` answered OK with consistent parity within its budget (R173, R174, R178). -/
theorem dpRead_succeeds (addr : Word) (apndp : Bool) (k : Nat) (hk : k < Config.params.waitAttempts) (w : Word)
    (s : State) (h : s.shows (readAnswer k w)) :
    ∃ t, dpRead Config.params addr apndp s = (.ok w, t) ∧
      Done s t (3 * k + 36) (transactionPulses k) [] (readTransaction (packHeader addr apndp true) k) := by
  obtain ⟨t, ht, hd⟩ := dpReadLoop_answered addr apndp Config.params.waitAttempts k hk
    (log .trace (.transaction ⟨addr, apndp, .read⟩) s) w (evenParity w) h
  rw [if_pos rfl] at ht hd
  exact ⟨t, ht, hd.after_log⟩

/-- `dpRead` failing by its acknowledge or its parity (R174 to R178). -/
theorem dpRead_fails (addr : Word) (apndp : Bool) (ls : List Bool) (e : ErrorKind) (n : Nat)
    (ha : ReadFailure ls e n) (s : State) (h : s.shows ls) :
    ∃ f t, dpRead Config.params addr apndp s = (.error e, t) ∧ f.kind = e ∧
      Done s t ls.length n [⟨.error, .failure f⟩] (failedRead (packHeader addr apndp true) e n) := by
  have hs : (log .trace (.transaction ⟨addr, apndp, .read⟩) s).shows ls := h
  cases ha with
  | parity k w hk =>
    obtain ⟨t, ht, hd⟩ := dpReadLoop_answered addr apndp _ k hk _ w (!evenParity w) hs
    rw [if_neg (by simp)] at ht hd
    exact ⟨_, t, ht, rfl, by simpa [transactionPulses, failedRead] using hd.after_log⟩
  | ack _ _ _ ha =>
    cases ha with
    | fault k hk =>
      obtain ⟨t, ht, hd⟩ := dpReadLoop_fails addr apndp _ k hk _ _ (by decide) (by decide) hs
      exact ⟨_, t, ht, rfl, by simpa [failedRead] using hd.after_log⟩
    | invalid k a hk hc =>
      have h1 : a ≠ Config.params.ackOk := by rintro rfl; exact absurd hc (by decide)
      have h2 : a ≠ Config.params.ackWait := by rintro rfl; exact absurd hc (by decide)
      have h3 : a ≠ Config.params.ackFault := by rintro rfl; exact absurd hc (by decide)
      obtain ⟨t, ht, hd⟩ := dpReadLoop_fails addr apndp _ k hk _ a h1 h2 hs
      rw [ackFailure, if_neg h3] at ht hd
      exact ⟨_, t, ht, rfl, by simpa [failedRead] using hd.after_log⟩
    | timeout =>
      obtain ⟨t, ht, hd⟩ := dpReadLoop_times_out addr apndp _ (by decide) _ hs
      exact ⟨_, t, ht, rfl, by simpa [failedRead] using hd.after_log⟩

/-- Whatever the target answers, a write is answered OK within its budget or fails by its acknowledge (R165, R178). -/
theorem write_answers (s : State) :
    (∃ k, k < Config.params.waitAttempts ∧ s.shows (writeAnswer k)) ∨ ∃ ls e n, AckFailure ls e n ∧ s.shows ls := by
  rcases answers_cases Config.params.waitAttempts s.targetScript with ⟨k, a, hk, hne, h⟩ | h
  · by_cases h1 : a = Config.params.ackOk
    · subst h1; exact .inl ⟨k, hk, h⟩
    · by_cases h3 : a = Config.params.ackFault
      · subst h3; exact .inr ⟨_, _, _, .fault k hk, h⟩
      · exact .inr ⟨_, _, _, .invalid k a hk (by rw [classify, if_neg h1, if_neg hne, if_neg h3]), h⟩
  · exact .inr ⟨_, _, _, .timeout, h⟩

/-- Whatever the target answers, a read succeeds with a word, or fails (R165, R174, R178). -/
theorem read_answers (s : State) :
    (∃ k w, k < Config.params.waitAttempts ∧ s.shows (readAnswer k w)) ∨
      ∃ ls e n, ReadFailure ls e n ∧ s.shows ls := by
  rcases write_answers s with ⟨k, hk, h⟩ | ⟨ls, e, n, ha, h⟩
  · obtain ⟨w, hw⟩ := exists_lsbBits_word (targetLevels 32 (s.targetScript.drop (3 * k + 3))) (by simp)
    obtain ⟨p, hp⟩ := List.length_eq_one_iff.mp
      (length_targetLevels 1 ((s.targetScript.drop (3 * k + 3)).drop 32))
    have hs : s.shows (readAnswerWith k w p) := by
      rw [readAnswerWith, List.append_assoc]
      refine (shows_append s (writeAnswer k) (lsbBits w 32 ++ [p])).mpr ⟨h, ?_⟩
      rw [length_writeAnswer]
      exact (targetLevels_append_iff _ _ _).mpr ⟨by simpa using hw, by simpa using hp⟩
    by_cases hq : p = evenParity w
    · subst hq; exact .inl ⟨k, w, hk, hs⟩
    · have : p = !evenParity w := by cases p <;> cases h : evenParity w <;> simp_all
      subst this; exact .inr ⟨_, _, _, .parity k w hk, hs⟩
  · exact .inr ⟨_, _, _, .ack _ _ _ ha, h⟩

end Sys2Proof.Machine
end

