-- ==== Sys2Proof/Laws/Ap.lean ====
section
/-! SUPPORT. What the access-port layer does (42_ap_layer.md): the selector and the two accesses, for every sequence of
answers, and the one law of a run that holds whatever is answered. -/

namespace Sys2Proof.Machine

/-! ### Every case at once -/

/-- What a run reported: nothing on success, one error-level diagnostic of its kind on failure (R262). -/
def Reported {α : Type} : Except ErrorKind α → List Diag → Prop
  | .ok _, errs => errs = []
  | .error e, errs => ∃ f : Failure, f.kind = e ∧ errs = [⟨.error, .failure f⟩]

/-- The kinds a write can fail with (R261). -/
def WriteKind (e : ErrorKind) : Prop := e = .protocolFault ∨ e = .protocolError ∨ e = .waitTimeout

/-- The kinds a read can fail with (R261). -/
def ReadKind (e : ErrorKind) : Prop := WriteKind e ∨ e = .parityError

/-- A run of complete attempts from `s`: it ends framed after the drain, it reported its failure, and the failure is one
of `kinds`. -/
def Ended {α : Type} (kinds : ErrorKind → Prop) (s : State) (r : Run α) : Prop :=
  (∃ used pulses errs bits, Done s r.2 used pulses errs bits ∧ Reported r.1 errs) ∧ ∀ e, r.1 = .error e → kinds e

/-- The same of a run that may have made no attempt: then it succeeded and did nothing on the wire. -/
def EndedOrIdle {α : Type} (kinds : ErrorKind → Prop) (s : State) (r : Run α) : Prop :=
  Ended kinds s r ∨ (r.2 = s ∧ ∃ a, r.1 = .ok a)

theorem AckFailure.kind_write {ls : List Bool} {e : ErrorKind} {n : Nat} (h : AckFailure ls e n) : WriteKind e := by
  cases h <;> simp [WriteKind]

theorem ReadFailure.kind_read {ls : List Bool} {e : ErrorKind} {n : Nat} (h : ReadFailure ls e n) : ReadKind e := by
  cases h with
  | ack _ _ _ h => exact .inl h.kind_write
  | parity => exact .inr rfl

/-- Every write ends (R180). -/
theorem ended_dpWrite (addr : Word) (apndp : Bool) (data : Word) (s : State) :
    Ended WriteKind s (dpWrite Config.params addr apndp data s) := by
  rcases write_answers s with ⟨k, hk, h⟩ | ⟨ls, e, n, ha, h⟩
  · obtain ⟨t, ht, hd⟩ := dpWrite_succeeds addr apndp data k hk s h
    rw [ht]
    exact ⟨⟨_, _, _, _, hd, rfl⟩, fun e he => by simp at he⟩
  · obtain ⟨f, t, ht, hf, hd⟩ := dpWrite_fails addr apndp data ls e n ha s h
    rw [ht]
    exact ⟨⟨_, _, _, _, hd, f, hf, rfl⟩, fun e' he => by cases he; exact ha.kind_write⟩

/-- Every read ends (R180). -/
theorem ended_dpRead (addr : Word) (apndp : Bool) (s : State) :
    Ended ReadKind s (dpRead Config.params addr apndp s) := by
  rcases read_answers s with ⟨k, w, hk, h⟩ | ⟨ls, e, n, ha, h⟩
  · obtain ⟨t, ht, hd⟩ := dpRead_succeeds addr apndp k hk w s h
    rw [ht]
    exact ⟨⟨_, _, _, _, hd, rfl⟩, fun e he => by simp at he⟩
  · obtain ⟨f, t, ht, hf, hd⟩ := dpRead_fails addr apndp ls e n ha s h
    rw [ht]
    exact ⟨⟨_, _, _, _, hd, f, hf, rfl⟩, fun e' he => by cases he; exact ha.kind_read⟩

theorem Ended.after_log {α : Type} {K : ErrorKind → Prop} {s : State} {e : DiagEvent} {r : Run α}
    (h : Ended K (log .trace e s) r) : Ended K s r := by
  obtain ⟨⟨m, p, ds, b, hd, hr⟩, hk⟩ := h
  exact ⟨⟨m, p, ds, b, hd.after_log, hr⟩, hk⟩

/-- A run that continues a successful one. -/
theorem Ended.andThen {α β : Type} {K K' L : ErrorKind → Prop} {s : State} {r : Run α} {f : α → State → Run β}
    (h : Ended K s r) (hf : ∀ a t, r = (.ok a, t) → EndedOrIdle K' t (f a t)) (hk : ∀ e, K e → L e)
    (hk' : ∀ e, K' e → L e) : Ended L s (Machine.andThen r f) := by
  obtain ⟨x, t⟩ := r
  cases x with
  | error e => exact ⟨h.1, fun e' he => by cases he; exact hk e (h.2 e rfl)⟩
  | ok a =>
    obtain ⟨⟨m, p, ds, b, hd, hr⟩, -⟩ := h
    cases hr
    rcases hf a t rfl with ⟨⟨n, q, es, c, hd', hr'⟩, hk2⟩ | ⟨hs, c, hc⟩
    · exact ⟨⟨_, _, _, _, hd.trans hd', by simpa [Machine.andThen] using hr'⟩, fun e he => hk' e (hk2 e he)⟩
    · refine ⟨⟨m, p, [], b, ?_, ?_⟩, ?_⟩
      · simpa [Machine.andThen, hs] using hd
      · simp [Machine.andThen, hc, Reported]
      · intro e he; simp [Machine.andThen, hc] at he

/-- A run that continues one that may have made no attempt. -/
theorem EndedOrIdle.andThen {α β : Type} {K K' L : ErrorKind → Prop} {s : State} {r : Run α}
    {f : α → State → Run β} (h : EndedOrIdle K s r) (hf : ∀ a t, r = (.ok a, t) → Ended K' t (f a t))
    (hk : ∀ e, K e → L e) (hk' : ∀ e, K' e → L e) : Ended L s (Machine.andThen r f) := by
  rcases h with h | ⟨hs, a, ha⟩
  · exact h.andThen (fun a t hr => .inl (hf a t hr)) hk hk'
  · obtain ⟨x, t⟩ := r
    subst hs
    subst ha
    obtain ⟨h1, h2⟩ := hf a t rfl
    exact ⟨h1, fun e he => hk' e (h2 e he)⟩

/-! ### The selector -/

/-- Caching a selection is no wire activity. -/
theorem Done.setSelcache {s t : State} {m p : Nat} {ds : List Diag} {b : List (Option Bool)} (h : Done s t m p ds b)
    (v : Word) : Done s (setSelcache v t) m p ds b where
  wire := { clkPin := h.wire.clkPin, dioPin := h.wire.dioPin, verbosity := h.wire.verbosity
            linkReady := h.wire.linkReady, pinsReady := h.wire.pinsReady, hostScript := h.wire.hostScript
            loadBuffer := h.wire.loadBuffer, result := h.wire.result, freeCount := h.wire.freeCount
            acts := h.wire.acts, target := h.wire.target, errors := h.wire.errors, diag := h.wire.diag }
  framed := h.framed
  idle := h.idle
  late := h.late.congr rfl rfl
  seen := h.seen

/-- On a cache hit the selector does nothing (R201). -/
theorem select_hit (port : BitVec 8) (addr : Word) (s : State) (h : selectValue port addr = s.selcache) :
    selectAccessPort Config.params port addr s = (.ok (), s) := by
  simp [selectAccessPort, h]

theorem select_miss (port : BitVec 8) (addr : Word) (s : State) (h : selectValue port addr ≠ s.selcache) :
    selectAccessPort Config.params port addr s
      = andThen (dpWrite Config.params 0x8 false (selectValue port addr) s) fun _ s1 =>
          (.ok (), setSelcache (selectValue port addr) s1) := by
  simp [selectAccessPort, h]

/-- On a miss answered OK it caches the selection it wrote (R201). -/
theorem select_succeeds (port : BitVec 8) (addr : Word) (j : Nat) (hj : j < Config.params.waitAttempts) (s : State)
    (hm : selectValue port addr ≠ s.selcache) (h : s.shows (writeAnswer j)) :
    ∃ t, selectAccessPort Config.params port addr s = (.ok (), t) ∧ t.selcache = selectValue port addr ∧
      Done s t (3 * j + 3) (transactionPulses j) [] (writeTransaction 0xB1 (selectValue port addr) j) := by
  obtain ⟨t, ht, hd⟩ := dpWrite_succeeds 0x8 false (selectValue port addr) j hj s h
  exact ⟨setSelcache (selectValue port addr) t, by rw [select_miss _ _ _ hm, ht]; rfl, rfl, hd.setSelcache _⟩

/-- On a miss answered otherwise it fails and leaves the cache alone (R201). -/
theorem select_fails (port : BitVec 8) (addr : Word) (ls : List Bool) (e : ErrorKind) (n : Nat)
    (ha : AckFailure ls e n) (s : State) (hm : selectValue port addr ≠ s.selcache) (h : s.shows ls) :
    ∃ f t, selectAccessPort Config.params port addr s = (.error e, t) ∧ f.kind = e ∧ t.selcache = s.selcache ∧
      Done s t ls.length n [⟨.error, .failure f⟩] (failedWrite 0xB1 n) := by
  obtain ⟨f, t, ht, hf, hd⟩ := dpWrite_fails 0x8 false (selectValue port addr) ls e n ha s h
  have hs := dpWrite_selcache 0x8 false (selectValue port addr) s
  rw [ht] at hs
  exact ⟨f, t, by rw [select_miss _ _ _ hm, ht]; rfl, hf, hs, hd⟩

theorem ended_select (port : BitVec 8) (addr : Word) (s : State) :
    EndedOrIdle WriteKind s (selectAccessPort Config.params port addr s) := by
  by_cases hm : selectValue port addr = s.selcache
  · exact .inr ⟨by rw [select_hit _ _ _ hm], (), by rw [select_hit _ _ _ hm]⟩
  · left
    rcases write_answers s with ⟨k, hk, h⟩ | ⟨ls, e, n, ha, h⟩
    · obtain ⟨t, ht, -, hd⟩ := select_succeeds port addr k hk s hm h
      rw [ht]
      exact ⟨⟨_, _, _, _, hd, rfl⟩, fun e he => by simp at he⟩
    · obtain ⟨f, t, ht, hf, -, hd⟩ := select_fails port addr ls e n ha s hm h
      rw [ht]
      exact ⟨⟨_, _, _, _, hd, f, hf, rfl⟩, fun e' he => by cases he; exact ha.kind_write⟩

/-- The cache after the selector: the selection on success, as before on failure (R201). -/
theorem select_selcache (port : BitVec 8) (addr : Word) (s : State) :
    (selectAccessPort Config.params port addr s).2.selcache
      = match (selectAccessPort Config.params port addr s).1 with
        | .ok _ => selectValue port addr
        | .error _ => s.selcache := by
  by_cases hm : selectValue port addr = s.selcache
  · rw [select_hit _ _ _ hm]; exact hm.symm
  · rw [select_miss _ _ _ hm]
    have hs := dpWrite_selcache 0x8 false (selectValue port addr) s
    rcases hw : dpWrite Config.params 0x8 false (selectValue port addr) s with ⟨_ | _, t⟩
    · rw [hw] at hs; exact hs
    · rfl

/-! ### The accesses -/

/-- The header of an access uses only address bits 3 and 2 (R162, R203). -/
theorem packHeader_bankAddress (addr : Word) (apndp rnw : Bool) :
    packHeader (bankAddress addr) apndp rnw = packHeader addr apndp rnw := by
  have h2 : (bankAddress addr).getLsbD 2 = addr.getLsbD 2 := by simp [bankAddress]
  have h3 : (bankAddress addr).getLsbD 3 = addr.getLsbD 3 := by simp [bankAddress]
  simp only [packHeader, headerParity, h2, h3]

/-- Selector and then something else, when the SELECT write, if one is needed, is answered OK. -/
theorem select_then (port : BitVec 8) (addr : Word) (j : Nat) (hj : j < Config.params.waitAttempts) (s : State)
    (ls : List Bool) (h : s.shows (selectLevels s (selectValue port addr) j ++ ls)) :
    ∃ s1, selectAccessPort Config.params port addr s = (.ok (), s1) ∧ s1.selcache = selectValue port addr ∧
      s1.shows ls ∧ (s1.dioMode = s.dioMode ∨ s1.dioMode = .outPP) ∧
      ∀ t m p ds b, Done s1 t m p ds b →
        Done s t ((selectLevels s (selectValue port addr) j).length + m) (selectPulses s (selectValue port addr) j + p)
          ds (selectBits s (selectValue port addr) j ++ b) := by
  by_cases hm : selectValue port addr = s.selcache
  · refine ⟨s, select_hit _ _ _ hm, hm.symm, ?_, .inl rfl, fun t m p ds b hd => ?_⟩
    · simpa [selectLevels, hm] using h
    · simpa [selectLevels, selectPulses, selectBits, hm] using hd
  · rw [selectLevels, if_neg hm] at h
    obtain ⟨h1, h2⟩ := (shows_append _ _ _).mp h
    obtain ⟨s1, hs, hc, hd1⟩ := select_succeeds port addr j hj s hm h1
    refine ⟨s1, hs, hc, ?_, .inr hd1.framed.1, fun t m p ds b hd => ?_⟩
    · rw [State.shows, hd1.wire.target, ← length_writeAnswer]; exact h2
    · simpa [selectLevels, selectPulses, selectBits, hm] using hd1.trans hd

/-- `apWrite` answered OK (R203). -/
theorem apWrite_succeeds (port : BitVec 8) (addr data : Word) (j k : Nat) (hj : j < Config.params.waitAttempts)
    (hk : k < Config.params.waitAttempts) (s : State)
    (h : s.shows (selectLevels s (selectValue port addr) j ++ writeAnswer k)) :
    ∃ t, apWrite Config.params port addr data s = (.ok (), t) ∧ t.selcache = selectValue port addr ∧
      Done s t ((selectLevels s (selectValue port addr) j).length + (3 * k + 3))
        (selectPulses s (selectValue port addr) j + transactionPulses k) []
        (selectBits s (selectValue port addr) j ++ writeTransaction (packHeader addr true false) data k) := by
  obtain ⟨s1, hs, hc, hl, -, hd⟩ := select_then port addr j hj s _ h
  obtain ⟨t, ht, hd'⟩ := dpWrite_succeeds (bankAddress addr) true data k hk s1 hl
  have hsel := dpWrite_selcache (bankAddress addr) true data s1
  rw [ht] at hsel
  rw [packHeader_bankAddress] at hd'
  exact ⟨t, by rw [apWrite, hs]; exact ht, hsel.trans hc, hd _ _ _ _ _ hd'⟩

/-- `apWrite` whose access fails (R203). -/
theorem apWrite_fails (port : BitVec 8) (addr data : Word) (j : Nat) (hj : j < Config.params.waitAttempts)
    (ls : List Bool) (e : ErrorKind) (n : Nat) (ha : AckFailure ls e n) (s : State)
    (h : s.shows (selectLevels s (selectValue port addr) j ++ ls)) :
    ∃ f t, apWrite Config.params port addr data s = (.error e, t) ∧ f.kind = e ∧
      t.selcache = selectValue port addr ∧
      Done s t ((selectLevels s (selectValue port addr) j).length + ls.length)
        (selectPulses s (selectValue port addr) j + n) [⟨.error, .failure f⟩]
        (selectBits s (selectValue port addr) j ++ failedWrite (packHeader addr true false) n) := by
  obtain ⟨s1, hs, hc, hl, -, hd⟩ := select_then port addr j hj s _ h
  obtain ⟨f, t, ht, hf, hd'⟩ := dpWrite_fails (bankAddress addr) true data ls e n ha s1 hl
  have hsel := dpWrite_selcache (bankAddress addr) true data s1
  rw [ht] at hsel
  rw [packHeader_bankAddress] at hd'
  exact ⟨f, t, by rw [apWrite, hs]; exact ht, hf, hsel.trans hc, hd _ _ _ _ _ hd'⟩

/-- `apWrite` whose SELECT write fails: no access (R203). -/
theorem apWrite_select_fails (port : BitVec 8) (addr data : Word) (ls : List Bool) (e : ErrorKind) (n : Nat)
    (ha : AckFailure ls e n) (s : State) (hm : selectValue port addr ≠ s.selcache) (h : s.shows ls) :
    ∃ f t, apWrite Config.params port addr data s = (.error e, t) ∧ f.kind = e ∧ t.selcache = s.selcache ∧
      Done s t ls.length n [⟨.error, .failure f⟩] (failedWrite 0xB1 n) := by
  obtain ⟨f, t, ht, hf, hs, hd⟩ := select_fails port addr ls e n ha s hm h
  exact ⟨f, t, by rw [apWrite, ht]; rfl, hf, hs, hd⟩

/-- `apRead` answered OK: its word is the word of that one read (R204, R206). -/
theorem apRead_succeeds (port : BitVec 8) (addr : Word) (j k : Nat) (hj : j < Config.params.waitAttempts)
    (hk : k < Config.params.waitAttempts) (w : Word) (s : State)
    (h : s.shows (selectLevels s (selectValue port addr) j ++ readAnswer k w)) :
    ∃ t, apRead Config.params port addr s = (.ok w, t) ∧ t.selcache = selectValue port addr ∧
      Done s t ((selectLevels s (selectValue port addr) j).length + (3 * k + 36))
        (selectPulses s (selectValue port addr) j + transactionPulses k) []
        (selectBits s (selectValue port addr) j ++ readTransaction (packHeader addr true true) k) := by
  obtain ⟨s1, hs, hc, hl, -, hd⟩ := select_then port addr j hj s _ h
  obtain ⟨t, ht, hd'⟩ := dpRead_succeeds (bankAddress addr) true k hk w s1 hl
  have hsel := dpRead_selcache (bankAddress addr) true s1
  rw [ht] at hsel
  rw [packHeader_bankAddress] at hd'
  exact ⟨t, by rw [apRead, hs]; exact ht, hsel.trans hc, hd _ _ _ _ _ hd'⟩

/-- `apRead` whose access fails (R204). -/
theorem apRead_fails (port : BitVec 8) (addr : Word) (j : Nat) (hj : j < Config.params.waitAttempts)
    (ls : List Bool) (e : ErrorKind) (n : Nat) (ha : ReadFailure ls e n) (s : State)
    (h : s.shows (selectLevels s (selectValue port addr) j ++ ls)) :
    ∃ f t, apRead Config.params port addr s = (.error e, t) ∧ f.kind = e ∧
      t.selcache = selectValue port addr ∧
      Done s t ((selectLevels s (selectValue port addr) j).length + ls.length)
        (selectPulses s (selectValue port addr) j + n) [⟨.error, .failure f⟩]
        (selectBits s (selectValue port addr) j ++ failedRead (packHeader addr true true) e n) := by
  obtain ⟨s1, hs, hc, hl, -, hd⟩ := select_then port addr j hj s _ h
  obtain ⟨f, t, ht, hf, hd'⟩ := dpRead_fails (bankAddress addr) true ls e n ha s1 hl
  have hsel := dpRead_selcache (bankAddress addr) true s1
  rw [ht] at hsel
  rw [packHeader_bankAddress] at hd'
  exact ⟨f, t, by rw [apRead, hs]; exact ht, hf, hsel.trans hc, hd _ _ _ _ _ hd'⟩

/-- `apRead` whose SELECT write fails: no access (R204). -/
theorem apRead_select_fails (port : BitVec 8) (addr : Word) (ls : List Bool) (e : ErrorKind) (n : Nat)
    (ha : AckFailure ls e n) (s : State) (hm : selectValue port addr ≠ s.selcache) (h : s.shows ls) :
    ∃ f t, apRead Config.params port addr s = (.error e, t) ∧ f.kind = e ∧ t.selcache = s.selcache ∧
      Done s t ls.length n [⟨.error, .failure f⟩] (failedWrite 0xB1 n) := by
  obtain ⟨f, t, ht, hf, hs, hd⟩ := select_fails port addr ls e n ha s hm h
  exact ⟨f, t, by rw [apRead, ht]; rfl, hf, hs, hd⟩

/-- Every access-port write ends (R180). -/
theorem ended_apWrite (port : BitVec 8) (addr data : Word) (s : State) :
    Ended WriteKind s (apWrite Config.params port addr data s) :=
  (ended_select port addr s).andThen (fun _ _ _ => ended_dpWrite ..) (fun _ h => h) (fun _ h => h)

/-- Every access-port read ends (R180). -/
theorem ended_apRead (port : BitVec 8) (addr : Word) (s : State) :
    Ended ReadKind s (apRead Config.params port addr s) :=
  (ended_select port addr s).andThen (fun _ _ _ => ended_dpRead ..) (fun _ h => .inl h) (fun _ h => h)

/-- The cache after an access: as before or the selection, the latter on success (R201, R205). -/
theorem apWrite_selcache (port : BitVec 8) (addr data : Word) (s : State) :
    ((apWrite Config.params port addr data s).2.selcache = s.selcache ∨
      (apWrite Config.params port addr data s).2.selcache = selectValue port addr) ∧
    ((apWrite Config.params port addr data s).1 = .ok () →
      (apWrite Config.params port addr data s).2.selcache = selectValue port addr) := by
  have h := select_selcache port addr s
  rw [apWrite]
  rcases hs : selectAccessPort Config.params port addr s with ⟨_ | _, t⟩
  · rw [hs] at h; exact ⟨.inl h, fun he => by simp [andThen] at he⟩
  · rw [hs] at h
    have := dpWrite_selcache (bankAddress addr) true data t
    exact ⟨.inr (this.trans h), fun _ => this.trans h⟩

theorem apRead_selcache (port : BitVec 8) (addr : Word) (s : State) :
    ((apRead Config.params port addr s).2.selcache = s.selcache ∨
      (apRead Config.params port addr s).2.selcache = selectValue port addr) ∧
    (∀ w, (apRead Config.params port addr s).1 = .ok w →
      (apRead Config.params port addr s).2.selcache = selectValue port addr) := by
  have h := select_selcache port addr s
  rw [apRead]
  rcases hs : selectAccessPort Config.params port addr s with ⟨_ | _, t⟩
  · rw [hs] at h; exact ⟨.inl h, fun w he => by simp [andThen] at he⟩
  · rw [hs] at h
    have := dpRead_selcache (bankAddress addr) true t
    exact ⟨.inr (this.trans h), fun _ _ => this.trans h⟩

theorem milestones_setSelcache (v : Word) (s : State) : (setSelcache v s).milestones = s.milestones := rfl

theorem select_milestones (port : BitVec 8) (addr : Word) (s : State) :
    (selectAccessPort Config.params port addr s).2.milestones = s.milestones := by
  by_cases hm : selectValue port addr = s.selcache
  · rw [select_hit _ _ _ hm]
  · rw [select_miss _ _ _ hm]
    have hs := dpWrite_milestones 0x8 false (selectValue port addr) s
    rcases hw : dpWrite Config.params 0x8 false (selectValue port addr) s with ⟨_ | _, t⟩ <;> (rw [hw] at hs; exact hs)

@[simp] theorem apWrite_milestones (port : BitVec 8) (addr data : Word) (s : State) :
    (apWrite Config.params port addr data s).2.milestones = s.milestones := by
  have h := select_milestones port addr s
  rw [apWrite]
  rcases hs : selectAccessPort Config.params port addr s with ⟨_ | _, t⟩ <;> rw [hs] at h
  · exact h
  · exact (dpWrite_milestones ..).trans h

@[simp] theorem apRead_milestones (port : BitVec 8) (addr : Word) (s : State) :
    (apRead Config.params port addr s).2.milestones = s.milestones := by
  have h := select_milestones port addr s
  rw [apRead]
  rcases hs : selectAccessPort Config.params port addr s with ⟨_ | _, t⟩ <;> rw [hs] at h
  · exact h
  · exact (dpRead_milestones ..).trans h

end Sys2Proof.Machine
end

