-- ==== Sys2Proof/Laws/Mem.lean ====
section
/-! SUPPORT. What the memory facade does (43_memory_and_init.md section 2): the word loops by induction on the words, and
the four ways a transfer can end. -/

namespace Sys2Proof.Machine

/-- The selection of TAR and DRW of the default port: port 0, bank 0. -/
theorem selectValue_tar : selectValue Config.params.defaultPort Config.params.apTar = 0 := by decide

theorem selectValue_drw : selectValue Config.params.defaultPort Config.params.apDrw = 0 := by decide

/-- With its register selected an access is one DP transaction (R203). -/
theorem apWrite_hit (port : BitVec 8) (addr data : Word) (s : State) (h : selectValue port addr = s.selcache) :
    apWrite Config.params port addr data s = dpWrite Config.params (bankAddress addr) true data s := by
  rw [apWrite, select_hit _ _ _ h]; rfl

theorem apRead_hit (port : BitVec 8) (addr : Word) (s : State) (h : selectValue port addr = s.selcache) :
    apRead Config.params port addr s = dpRead Config.params (bankAddress addr) true s := by
  rw [apRead, select_hit _ _ _ h]; rfl

@[simp] theorem totalPulses_nil : totalPulses [] = 0 := rfl

@[simp] theorem totalPulses_cons (p : Nat × Word) (ps : List (Nat × Word)) :
    totalPulses (p :: ps) = transactionPulses p.1 + totalPulses ps := by simp [totalPulses]

@[simp] theorem writeLevels_nil : writeLevels [] = [] := rfl

@[simp] theorem writeLevels_cons (p : Nat × Word) (ps : List (Nat × Word)) :
    writeLevels (p :: ps) = writeAnswer p.1 ++ writeLevels ps := rfl

@[simp] theorem readLevels_nil : readLevels [] = [] := rfl

@[simp] theorem readLevels_cons (p : Nat × Word) (ps : List (Nat × Word)) :
    readLevels (p :: ps) = readAnswer p.1 p.2 ++ readLevels ps := rfl

/-- One DRW write with DRW selected. -/
theorem drw_write (w : Word) (k : Nat) (hk : k < Config.params.waitAttempts) (s : State) (hs : s.selcache = 0)
    (h : s.shows (writeAnswer k)) :
    ∃ t, apWrite Config.params Config.params.defaultPort Config.params.apDrw w s = (.ok (), t) ∧ t.selcache = 0 ∧
      Done s t (3 * k + 3) (transactionPulses k) [] (writeTransaction 0xBB w k) := by
  rw [apWrite_hit _ _ _ _ (by rw [selectValue_drw, hs])]
  obtain ⟨t, ht, hd⟩ := dpWrite_succeeds (bankAddress Config.params.apDrw) true w k hk s h
  have hsel := dpWrite_selcache (bankAddress Config.params.apDrw) true w s
  rw [ht] at hsel
  exact ⟨t, ht, hsel.trans hs, hd⟩

theorem drw_write_fails (w : Word) (ls : List Bool) (e : ErrorKind) (n : Nat) (ha : AckFailure ls e n) (s : State)
    (hs : s.selcache = 0) (h : s.shows ls) :
    ∃ f t, apWrite Config.params Config.params.defaultPort Config.params.apDrw w s = (.error e, t) ∧ f.kind = e ∧
      t.selcache = 0 ∧ Done s t ls.length n [⟨.error, .failure f⟩] (failedWrite 0xBB n) := by
  rw [apWrite_hit _ _ _ _ (by rw [selectValue_drw, hs])]
  obtain ⟨f, t, ht, hf, hd⟩ := dpWrite_fails (bankAddress Config.params.apDrw) true w ls e n ha s h
  have hsel := dpWrite_selcache (bankAddress Config.params.apDrw) true w s
  rw [ht] at hsel
  exact ⟨f, t, ht, hf, hsel.trans hs, hd⟩

theorem drw_read (k : Nat) (hk : k < Config.params.waitAttempts) (w : Word) (s : State) (hs : s.selcache = 0)
    (h : s.shows (readAnswer k w)) :
    ∃ t, apRead Config.params Config.params.defaultPort Config.params.apDrw s = (.ok w, t) ∧ t.selcache = 0 ∧
      Done s t (3 * k + 36) (transactionPulses k) [] (readTransaction 0x9F k) := by
  rw [apRead_hit _ _ _ (by rw [selectValue_drw, hs])]
  obtain ⟨t, ht, hd⟩ := dpRead_succeeds (bankAddress Config.params.apDrw) true k hk w s h
  have hsel := dpRead_selcache (bankAddress Config.params.apDrw) true s
  rw [ht] at hsel
  exact ⟨t, ht, hsel.trans hs, hd⟩

theorem drw_read_fails (ls : List Bool) (e : ErrorKind) (n : Nat) (ha : ReadFailure ls e n) (s : State)
    (hs : s.selcache = 0) (h : s.shows ls) :
    ∃ f t, apRead Config.params Config.params.defaultPort Config.params.apDrw s = (.error e, t) ∧ f.kind = e ∧
      t.selcache = 0 ∧ Done s t ls.length n [⟨.error, .failure f⟩] (failedRead 0x9F e n) := by
  rw [apRead_hit _ _ _ (by rw [selectValue_drw, hs])]
  obtain ⟨f, t, ht, hf, hd⟩ := dpRead_fails (bankAddress Config.params.apDrw) true ls e n ha s h
  have hsel := dpRead_selcache (bankAddress Config.params.apDrw) true s
  rw [ht] at hsel
  exact ⟨f, t, ht, hf, hsel.trans hs, hd⟩

/-! ### The word loops -/

/-- The words of a store that are answered OK, and then the rest of the loop (R232). -/
theorem storeWords_run (ps : List (Nat × Word)) (hp : ∀ p ∈ ps, p.1 < Config.params.waitAttempts) (rest : List Word)
    (a : Word) (s0 s : State) (m q : Nat) (b : List (Option Bool)) (h0 : Done s0 s m q [] b)
    (hs : s.selcache = 0) (ls : List Bool) (h : s.shows (writeLevels ps ++ ls)) :
    ∃ t a', storeWords Config.params (ps.map Prod.snd ++ rest) a s = storeWords Config.params rest a' t ∧
      t.selcache = 0 ∧ t.shows ls ∧
      Done s0 t (m + (writeLevels ps).length) (q + totalPulses ps) []
        (b ++ ps.flatMap fun p => writeTransaction 0xBB p.2 p.1) := by
  induction ps generalizing a s m q b with
  | nil => exact ⟨s, a, rfl, hs, h, by simpa using h0⟩
  | cons p ps ih =>
    rw [writeLevels_cons, List.append_assoc] at h
    obtain ⟨h1, h2⟩ := (shows_append _ _ _).mp h
    obtain ⟨t, ht, hc, hd⟩ := drw_write p.2 p.1 (hp p (by simp)) (log .trace (.memStoreWord a p.2) s) hs h1
    have hd' := h0.trans hd.after_log
    have h3 : t.shows (writeLevels ps ++ ls) := by
      rw [State.shows, hd.wire.target, ← length_writeAnswer]; exact h2
    obtain ⟨u, a', hu, hcu, hls, hdu⟩ := ih (fun p' hp' => hp p' (by simp [hp'])) (a + Config.params.wordBytes) t _ _ _
      hd' hc h3
    refine ⟨u, a', ?_, hcu, hls, ?_⟩
    · rw [List.map_cons, List.cons_append, storeWords, ht]; exact hu
    · simpa [Nat.add_assoc] using hdu

/-- The words of a load that are answered OK, and then the rest of the loop, its words after them (R233). -/
theorem loadWords_run (ps : List (Nat × Word)) (hp : ∀ p ∈ ps, p.1 < Config.params.waitAttempts) (rest : Nat)
    (a : Word) (s0 s : State) (m q : Nat) (b : List (Option Bool)) (h0 : Done s0 s m q [] b)
    (hs : s.selcache = 0) (ls : List Bool) (h : s.shows (readLevels ps ++ ls)) :
    ∃ t a', loadWords Config.params (ps.length + rest) a s
        = andThen (loadWords Config.params rest a' t) (fun ws u => (.ok (ps.map Prod.snd ++ ws), u)) ∧
      t.selcache = 0 ∧ t.shows ls ∧
      Done s0 t (m + (readLevels ps).length) (q + totalPulses ps) []
        (b ++ ps.flatMap fun p => readTransaction 0x9F p.1) := by
  induction ps generalizing a s m q b with
  | nil =>
    refine ⟨s, a, ?_, hs, h, by simpa using h0⟩
    rw [List.length_nil, Nat.zero_add]
    rcases loadWords Config.params rest a s with ⟨_ | _, _⟩ <;> rfl
  | cons p ps ih =>
    rw [readLevels_cons, List.append_assoc] at h
    obtain ⟨h1, h2⟩ := (shows_append _ _ _).mp h
    obtain ⟨t, ht, hc, hd⟩ := drw_read p.1 (hp p (by simp)) p.2 s hs h1
    have hlog : Done s0 (log .trace (.memLoadWord a p.2) t) (m + (3 * p.1 + 36)) (q + transactionPulses p.1) []
        (b ++ readTransaction 0x9F p.1) := by
      simpa using (h0.trans hd).logged (.memLoadWord a p.2)
    have h3 : (log .trace (.memLoadWord a p.2) t).shows (readLevels ps ++ ls) := by
      rw [State.shows, log_targetScript, hd.wire.target, ← length_readAnswer]; exact h2
    obtain ⟨u, a', hu, hcu, hls, hdu⟩ := ih (fun p' hp' => hp p' (by simp [hp'])) (a + Config.params.wordBytes) _ _ _ _
      hlog hc h3
    refine ⟨u, a', ?_, hcu, hls, ?_⟩
    · rw [List.length_cons, Nat.add_right_comm, loadWords, ht]
      simp only [andThen]
      rw [hu]
      rcases loadWords Config.params rest a' u with ⟨_ | _, _⟩ <;> rfl
    · simpa [Nat.add_assoc] using hdu

theorem storeWords_nil (a : Word) (s : State) : storeWords Config.params [] a s = (.ok (), s) := rfl

theorem loadWords_zero (a : Word) (s : State) : loadWords Config.params 0 a s = (.ok [], s) := rfl

/-! ### A transfer, in full -/

/-- The TAR write answered OK: where the word loop starts (R232, R233). -/
theorem tar_written (address : Word) (j k : Nat) (hj : j < Config.params.waitAttempts)
    (hk : k < Config.params.waitAttempts) (s : State) (ls : List Bool)
    (h : s.shows (selectLevels s 0 j ++ writeAnswer k ++ ls)) :
    ∃ t, apWrite Config.params Config.params.defaultPort Config.params.apTar address s = (.ok (), t) ∧ t.selcache = 0 ∧
      t.shows ls ∧
      Done s t ((selectLevels s 0 j).length + (3 * k + 3)) (selectPulses s 0 j + transactionPulses k) []
        (selectBits s 0 j ++ writeTransaction 0x8B address k) := by
  obtain ⟨h1, h2⟩ := (shows_append _ _ _).mp h
  have h1' : s.shows (selectLevels s (selectValue Config.params.defaultPort Config.params.apTar) j ++ writeAnswer k) := by
    rw [selectValue_tar]; exact h1
  obtain ⟨t, ht, hc, hd⟩ := apWrite_succeeds _ _ address j k hj hk s h1'
  rw [selectValue_tar] at hc hd
  refine ⟨t, ht, hc, ?_, hd⟩
  rw [State.shows, hd.wire.target]
  simpa using h2

/-- A store with every transaction answered OK (R232). -/
theorem memoryStore_succeeds (address : Word) (j k : Nat) (ps : List (Nat × Word))
    (hj : j < Config.params.waitAttempts) (hk : k < Config.params.waitAttempts)
    (hp : ∀ p ∈ ps, p.1 < Config.params.waitAttempts) (s : State)
    (h : s.shows (selectLevels s 0 j ++ writeAnswer k ++ writeLevels ps)) :
    ∃ t n, memoryStore Config.params address (ps.map Prod.snd) s = (.ok (), t) ∧ t.selcache = 0 ∧
      Done s t n (selectPulses s 0 j + transactionPulses k + totalPulses ps) []
        (selectBits s 0 j ++ writeTransaction 0x8B address k ++ ps.flatMap fun p => writeTransaction 0xBB p.2 p.1) := by
  obtain ⟨t, ht, hc, hl, hd⟩ := tar_written address j k hj hk s _ h
  obtain ⟨u, a', hu, hcu, -, hdu⟩ := storeWords_run ps hp [] address s t _ _ _ hd hc [] (by simpa using hl)
  rw [List.append_nil, storeWords_nil] at hu
  exact ⟨u, _, by rw [memoryStore, ht]; exact hu, hcu, hdu⟩

/-- A store whose word after `ps` fails (R234). -/
theorem memoryStore_aborts (address : Word) (j k : Nat) (ps : List (Nat × Word)) (w : Word) (later : List Word)
    (hj : j < Config.params.waitAttempts) (hk : k < Config.params.waitAttempts)
    (hp : ∀ p ∈ ps, p.1 < Config.params.waitAttempts) (ls : List Bool) (e : ErrorKind) (n : Nat)
    (ha : AckFailure ls e n) (s : State)
    (h : s.shows (selectLevels s 0 j ++ writeAnswer k ++ writeLevels ps ++ ls)) :
    ∃ f t m, memoryStore Config.params address (ps.map Prod.snd ++ w :: later) s = (.error e, t) ∧ f.kind = e ∧
      t.selcache = 0 ∧
      Done s t m (selectPulses s 0 j + transactionPulses k + totalPulses ps + n) [⟨.error, .failure f⟩]
        (selectBits s 0 j ++ writeTransaction 0x8B address k ++ (ps.flatMap fun p => writeTransaction 0xBB p.2 p.1)
          ++ failedWrite 0xBB n) := by
  rw [List.append_assoc] at h
  obtain ⟨t, ht, hc, hl, hd⟩ := tar_written address j k hj hk s _ h
  obtain ⟨u, a', hu, hcu, hlu, hdu⟩ := storeWords_run ps hp (w :: later) address s t _ _ _ hd hc ls hl
  obtain ⟨f, v, hv, hf, hcv, hdv⟩ := drw_write_fails w ls e n ha (log .trace (.memStoreWord a' w) u) hcu hlu
  refine ⟨f, v, _, ?_, hf, hcv, hdu.trans hdv.after_log⟩
  rw [memoryStore, ht]
  simp only [andThen]
  rw [hu, storeWords, hv]
  rfl

/-- A load with every transaction answered OK (R233). -/
theorem memoryLoad_succeeds (address : Word) (j k : Nat) (ps : List (Nat × Word))
    (hj : j < Config.params.waitAttempts) (hk : k < Config.params.waitAttempts)
    (hp : ∀ p ∈ ps, p.1 < Config.params.waitAttempts) (s : State)
    (h : s.shows (selectLevels s 0 j ++ writeAnswer k ++ readLevels ps)) :
    ∃ t n, memoryLoad Config.params address ps.length s = (.ok (ps.map Prod.snd), t) ∧ t.selcache = 0 ∧
      Done s t n (selectPulses s 0 j + transactionPulses k + totalPulses ps) []
        (selectBits s 0 j ++ writeTransaction 0x8B address k ++ ps.flatMap fun p => readTransaction 0x9F p.1) := by
  obtain ⟨t, ht, hc, hl, hd⟩ := tar_written address j k hj hk s _ h
  obtain ⟨u, a', hu, hcu, -, hdu⟩ := loadWords_run ps hp 0 address s t _ _ _ hd hc [] (by simpa using hl)
  refine ⟨u, _, ?_, hcu, hdu⟩
  rw [memoryLoad, ht]
  simp only [andThen]
  rw [Nat.add_zero] at hu
  rw [hu, loadWords_zero]
  simp [andThen]

/-- A load whose word after `ps` fails (R234). -/
theorem memoryLoad_aborts (address : Word) (j k : Nat) (ps : List (Nat × Word)) (later : Nat)
    (hj : j < Config.params.waitAttempts) (hk : k < Config.params.waitAttempts)
    (hp : ∀ p ∈ ps, p.1 < Config.params.waitAttempts) (ls : List Bool) (e : ErrorKind) (n : Nat)
    (ha : ReadFailure ls e n) (s : State)
    (h : s.shows (selectLevels s 0 j ++ writeAnswer k ++ readLevels ps ++ ls)) :
    ∃ f t m, memoryLoad Config.params address (ps.length + (later + 1)) s = (.error e, t) ∧ f.kind = e ∧
      t.selcache = 0 ∧
      Done s t m (selectPulses s 0 j + transactionPulses k + totalPulses ps + n) [⟨.error, .failure f⟩]
        (selectBits s 0 j ++ writeTransaction 0x8B address k ++ (ps.flatMap fun p => readTransaction 0x9F p.1)
          ++ failedRead 0x9F e n) := by
  rw [List.append_assoc] at h
  obtain ⟨t, ht, hc, hl, hd⟩ := tar_written address j k hj hk s _ h
  obtain ⟨u, a', hu, hcu, hlu, hdu⟩ := loadWords_run ps hp (later + 1) address s t _ _ _ hd hc ls hl
  obtain ⟨f, v, hv, hf, hcv, hdv⟩ := drw_read_fails ls e n ha u hcu hlu
  refine ⟨f, v, _, ?_, hf, hcv, hdu.trans hdv⟩
  rw [memoryLoad, ht]
  simp only [andThen]
  rw [hu, loadWords, hv]
  rfl

/-! ### Whatever is answered -/

theorem endedOrIdle_storeWords (ws : List Word) (a : Word) (s : State) :
    EndedOrIdle WriteKind s (storeWords Config.params ws a s) := by
  induction ws generalizing a s with
  | nil => exact .inr ⟨rfl, (), rfl⟩
  | cons w ws ih =>
    refine .inl (Ended.andThen (K := WriteKind) (K' := WriteKind) ?_ (fun _ _ _ => ih _ _) (fun _ h => h) fun _ h => h)
    exact (ended_apWrite _ _ w (log .trace (.memStoreWord a w) s)).after_log

theorem endedOrIdle_loadWords (n : Nat) (a : Word) (s : State) :
    EndedOrIdle ReadKind s (loadWords Config.params n a s) := by
  induction n generalizing a s with
  | zero => exact .inr ⟨rfl, [], rfl⟩
  | succ n ih =>
    refine .inl ?_
    rw [loadWords]
    obtain ⟨⟨m, p, ds, b, hd, hr⟩, hk⟩ := ended_apRead Config.params.defaultPort Config.params.apDrw s
    rcases hap : apRead Config.params Config.params.defaultPort Config.params.apDrw s with ⟨e | w, t⟩
    · rw [hap] at hd hr hk
      exact ⟨⟨m, p, ds, b, hd, hr⟩, fun e' he => by cases he; exact hk e rfl⟩
    · rw [hap] at hd hr
      cases hr
      have hd' := hd.logged (.memLoadWord a w)
      simp only [andThen]
      rcases hlw : loadWords Config.params n (a + Config.params.wordBytes) (log .trace (.memLoadWord a w) t)
        with ⟨e | ws, u⟩
      · rcases hlw ▸ ih (a + Config.params.wordBytes) (log .trace (.memLoadWord a w) t) with ⟨⟨m', p', ds', b', hd2, hr2⟩, hk2⟩ | ⟨-, c, hc⟩
        · exact ⟨⟨_, _, _, _, hd'.trans hd2, by simpa using hr2⟩, fun e' he => by cases he; exact hk2 e rfl⟩
        · simp at hc
      · rcases hlw ▸ ih (a + Config.params.wordBytes) (log .trace (.memLoadWord a w) t) with ⟨⟨m', p', ds', b', hd2, hr2⟩, hk2⟩ | ⟨hu, -⟩
        · cases hr2
          exact ⟨⟨_, _, _, _, hd'.trans hd2, rfl⟩, fun e' he => by simp at he⟩
        · simp only at hu
          subst hu
          exact ⟨⟨_, _, _, _, hd', rfl⟩, fun e' he => by simp at he⟩

/-- Every store ends, with at least its TAR write made (R180). -/
theorem ended_memoryStore (address : Word) (ws : List Word) (s : State) :
    Ended WriteKind s (memoryStore Config.params address ws s) :=
  (ended_apWrite _ _ address s).andThen (fun _ _ _ => endedOrIdle_storeWords ..) (fun _ h => h) (fun _ h => h)

/-- Every load ends, with at least its TAR write made (R180). -/
theorem ended_memoryLoad (address : Word) (n : Nat) (s : State) :
    Ended ReadKind s (memoryLoad Config.params address n s) :=
  (ended_apWrite _ _ address s).andThen (fun _ _ _ => endedOrIdle_loadWords ..) (fun _ h => .inl h) (fun _ h => h)

theorem storeWords_selcache (ws : List Word) (a : Word) (s : State) :
    (storeWords Config.params ws a s).2.selcache = s.selcache ∨ (storeWords Config.params ws a s).2.selcache = 0 := by
  induction ws generalizing a s with
  | nil => exact .inl rfl
  | cons w ws ih =>
    rw [storeWords]
    have h := (apWrite_selcache Config.params.defaultPort Config.params.apDrw w (log .trace (.memStoreWord a w) s)).1
    rw [selectValue_drw] at h
    rcases hw : apWrite Config.params Config.params.defaultPort Config.params.apDrw w (log .trace (.memStoreWord a w) s)
      with ⟨_ | _, t⟩
    · rw [hw] at h; exact h
    · rw [hw] at h
      rcases ih (a + Config.params.wordBytes) t with hi | hi
      · exact h.imp hi.trans hi.trans
      · exact .inr hi

theorem loadWords_selcache (n : Nat) (a : Word) (s : State) :
    (loadWords Config.params n a s).2.selcache = s.selcache ∨ (loadWords Config.params n a s).2.selcache = 0 := by
  induction n generalizing a s with
  | zero => exact .inl rfl
  | succ n ih =>
    rw [loadWords]
    have h := (apRead_selcache Config.params.defaultPort Config.params.apDrw s).1
    rw [selectValue_drw] at h
    rcases hw : apRead Config.params Config.params.defaultPort Config.params.apDrw s with ⟨_ | w, t⟩
    · rw [hw] at h; exact h
    · rw [hw] at h
      have hi := ih (a + Config.params.wordBytes) (log .trace (.memLoadWord a w) t)
      have e : (andThen (loadWords Config.params n (a + Config.params.wordBytes) (log .trace (.memLoadWord a w) t))
          (fun ws s2 => (.ok (w :: ws), s2))).2
          = (loadWords Config.params n (a + Config.params.wordBytes) (log .trace (.memLoadWord a w) t)).2 := by
        rcases loadWords Config.params n (a + Config.params.wordBytes) (log .trace (.memLoadWord a w) t) with ⟨_ | _, _⟩
          <;> rfl
      simp only [andThen] at e ⊢
      rw [e]
      rcases hi with hi | hi
      · exact h.imp hi.trans hi.trans
      · exact .inr hi

theorem memoryStore_selcache (address : Word) (ws : List Word) (s : State) :
    (memoryStore Config.params address ws s).2.selcache = s.selcache ∨
      (memoryStore Config.params address ws s).2.selcache = 0 := by
  rw [memoryStore]
  have h := (apWrite_selcache Config.params.defaultPort Config.params.apTar address s).1
  rw [selectValue_tar] at h
  rcases hw : apWrite Config.params Config.params.defaultPort Config.params.apTar address s with ⟨_ | _, t⟩
  · rw [hw] at h; exact h
  · rw [hw] at h
    rcases storeWords_selcache ws address t with hi | hi
    · exact h.imp hi.trans hi.trans
    · exact .inr hi

theorem memoryLoad_selcache (address : Word) (n : Nat) (s : State) :
    (memoryLoad Config.params address n s).2.selcache = s.selcache ∨
      (memoryLoad Config.params address n s).2.selcache = 0 := by
  rw [memoryLoad]
  have h := (apWrite_selcache Config.params.defaultPort Config.params.apTar address s).1
  rw [selectValue_tar] at h
  rcases hw : apWrite Config.params Config.params.defaultPort Config.params.apTar address s with ⟨_ | _, t⟩
  · rw [hw] at h; exact h
  · rw [hw] at h
    rcases loadWords_selcache n address t with hi | hi
    · exact h.imp hi.trans hi.trans
    · exact .inr hi

end Sys2Proof.Machine
end

