-- ==== Sys2Proof/Laws/Link.lean ====
section
/-! SUPPORT. What link initialization does (43_memory_and_init.md sections 1 and 3): the bring-up sequence, each step of
`initialize` continued from the ones before it, and the command as a whole. -/

namespace Sys2Proof.Machine

/-! ### The bring-up sequence -/

/-- The events of a run are of trace level. -/
theorem filter_runEvents (p : Diag → Bool) (hp : ∀ e, p ⟨.trace, e⟩ = false) (v : Word) (n : Nat) (ms : List Nat) :
    ((runEvents v n ms).map Emitted.diag).filter p = [] := by
  induction ms generalizing n with
  | nil => rfl
  | cons m ms ih => simp [runEvents, hp, ih]

/-- A list of trace events is no wire activity. -/
theorem wire_logRun (v : Word) (n : Nat) (ms : List Nat) (s : State) : Wire s (logRun v n ms s) 0 0 [] where
  clkPin := rfl
  dioPin := rfl
  verbosity := rfl
  linkReady := rfl
  pinsReady := rfl
  hostScript := rfl
  loadBuffer := rfl
  result := rfl
  freeCount := rfl
  acts := ⟨[], by simp [State.pins, logRun]⟩
  target := rfl
  errors := by
    simp only [logRun, State.errorEvents]
    split
    · rw [List.map_append, List.filter_append, filter_runEvents _ fun _ => rfl]
    · simp
  diag := by
    simp only [logRun]
    split
    · exact List.prefix_append _ _
    · exact List.prefix_refl _

theorem milestones_logRun (v : Word) (n : Nat) (ms : List Nat) (s : State) :
    (logRun v n ms s).milestones = s.milestones := by
  simp only [logRun, State.milestones]
  split
  · rw [List.map_append, List.filter_append, filter_runEvents _ fun _ => rfl, List.append_nil]
  · rfl

@[simp] theorem sendRun_milestones (b : Bool) (k : Nat) (s : State) : (sendRun b k s).milestones = s.milestones := by
  rw [sendRun, milestones_logRun]; rfl

theorem wire_sendRun (b : Bool) (k : Nat) (s : State) : Wire s (sendRun b k s) 0 k [] := by
  simpa [sendRun] using (wire_driveBits (List.replicate k b) s).trans (wire_logRun _ _ (runPieces k) _)

theorem bitsSince_sendRun (b : Bool) (k : Nat) (s : State) (h : s.dioMode = .outPP) :
    bitsSince s (sendRun b k s) = List.replicate k (some b) := by
  have : bitsSince s (sendRun b k s) = bitsSince s (driveBits (List.replicate k b) s) := rfl
  rw [this, bitsSince_driveBits]
  simp [h]

/-- Step 2 (R222): wire activity of `bringupPulses` pulses, nothing read. -/
theorem wire_linkStep2 (s : State) : Wire s (linkStep2 Config.params s) 0 bringupPulses [] := by
  have h := (((wire_sendRun true Config.params.lineResetOnes s).trans
    (wire_writeBits Config.params.switchCode Config.params.switchBits _)).trans
      (wire_sendRun true Config.params.lineResetOnes _)).trans (wire_sendRun false Config.params.trailingZeroBits _)
  have e : Config.params.lineResetOnes + Config.params.switchBits + Config.params.lineResetOnes
      + Config.params.trailingZeroBits = bringupPulses := by
    simp only [bringupPulses, params_switchBits]; omega
  rw [e] at h
  exact h

@[simp] theorem linkStep2_dioMode (s : State) : (linkStep2 Config.params s).dioMode = s.dioMode := by
  simp [linkStep2]

@[simp] theorem linkStep2_selcache (s : State) : (linkStep2 Config.params s).selcache = s.selcache := by
  simp [linkStep2]

@[simp] theorem linkStep2_milestones (s : State) : (linkStep2 Config.params s).milestones = s.milestones := by
  simp [linkStep2]

theorem bitsSince_linkStep2 (s : State) (h : s.dioMode = .outPP) :
    bitsSince s (linkStep2 Config.params s) = (bringupBits Config.params).map some := by
  have w1 := wire_sendRun true Config.params.lineResetOnes s
  have w2 := wire_writeBits Config.params.switchCode Config.params.switchBits (sendRun true Config.params.lineResetOnes s)
  have w3 := wire_sendRun true Config.params.lineResetOnes
    (writeBits Config.params.switchCode Config.params.switchBits (sendRun true Config.params.lineResetOnes s))
  rw [linkStep2, ((w1.trans w2).trans w3).bitsSince_trans (wire_sendRun false Config.params.trailingZeroBits _),
    (w1.trans w2).bitsSince_trans w3, w1.bitsSince_trans w2, bitsSince_sendRun _ _ _ h, bitsSince_writeBits,
    bitsSince_sendRun _ _ _ (by simpa using h), bitsSince_sendRun _ _ _ (by simpa using h)]
  simp [bringupBits, h]

/-- The pins after step 2: the latch is the last trailing zero (R222). -/
theorem linkStep2_dioLatch (s : State) : (linkStep2 Config.params s).dioLatch = false := by
  have : (linkStep2 Config.params s).dioLatch
      = (List.replicate Config.params.trailingZeroBits false).getLastD (sendRun true Config.params.lineResetOnes
        (writeBits Config.params.switchCode Config.params.switchBits (sendRun true Config.params.lineResetOnes s))).dioLatch :=
    rfl
  rw [this, params_trailingZeroBits, List.replicate_succ', List.getLastD_concat]

theorem linkStep2_clkLevel (s : State) : (linkStep2 Config.params s).clkLevel = true := by
  have : (linkStep2 Config.params s).clkLevel = ((sendRun true Config.params.lineResetOnes
        (writeBits Config.params.switchCode Config.params.switchBits
          (sendRun true Config.params.lineResetOnes s))).clkLevel
      || !(List.replicate Config.params.trailingZeroBits false).isEmpty) := rfl
  rw [this, params_trailingZeroBits, List.replicate_succ]
  simp

/-! ### The steps, each from the state the steps before it left -/

/-- `t` comes from `s` by steps that succeeded: complete attempts, at least one, and no diagnostic of error level. -/
structure Stage (s t : State) (used pulses : Nat) : Prop where
  done : ∃ b, Done s t used pulses [] b

theorem Stage.trans_done {s t u : State} {m n p q : Nat} {es : List Diag} {b : List (Option Bool)} (h : Stage s t m p)
    (k : Done t u n q es b) : ∃ c, Done s u (m + n) (p + q) es c := by
  obtain ⟨c, hc⟩ := h.done
  exact ⟨_, hc.trans k⟩

theorem Stage.trans {s t u : State} {m n p q : Nat} (h : Stage s t m p) (k : Stage t u n q) :
    Stage s u (m + n) (p + q) := by
  obtain ⟨b, hb⟩ := k.done
  exact ⟨h.trans_done hb⟩

theorem Stage.shows {s t : State} {p : Nat} {a b : List Bool} (h : Stage s t a.length p) (hs : s.shows (a ++ b)) :
    t.shows b := by
  obtain ⟨c, hc⟩ := h.done
  rw [State.shows, hc.wire.target]
  exact ((shows_append _ _ _).mp hs).2

/-- A milestone after complete attempts. -/
theorem Done.milestone {s t : State} {m p : Nat} {ds : List Diag} {b : List (Option Bool)} (h : Done s t m p ds b)
    (e : DiagEvent) : Done s (log .normal e t) m p ds b where
  wire := by simpa using h.wire.trans (wire_log_normal e t)
  framed := h.framed
  idle := by
    obtain ⟨x, hx⟩ := h.idle
    exact ⟨x, by simpa [idleActions, writeBitActions, pulseActions] using hx⟩
  late := h.late.logged ..
  seen := fun hm => by
    rw [h.wire.bitsSince_trans (wire_log_normal e t), h.seen hm]
    simp [bitsSince, actionsSince, clockedBits]

/-- Steps 3 and 4 passed (R223, R224). -/
theorem steps34_pass {ls : List Bool} {n : Nat} {idcode : Word} (hp : IdcodePassed ls n idcode) (s : State)
    (h : s.shows ls) :
    ∃ t u, linkStep3 Config.params s = (.ok idcode, t) ∧ linkStep4 Config.params idcode t = (.ok (), u) ∧
      Stage s u ls.length n ∧ u.selcache = s.selcache ∧
      u.milestones = s.milestones ++ if Level.normal.passes s.verbosity then [⟨.normal, .foundArmProcessor idcode⟩]
        else [] := by
  obtain ⟨k, _, hk, hr⟩ := hp
  obtain ⟨t, ht, hd⟩ := dpRead_succeeds Config.params.dpIdcode false k hk idcode s h
  have hs := dpRead_selcache Config.params.dpIdcode false s
  have hm := dpRead_milestones Config.params.dpIdcode false s
  rw [ht] at hs hm
  refine ⟨t, log .normal (.foundArmProcessor idcode) t, by rw [linkStep3, ht], by rw [linkStep4, if_pos hr],
    ⟨_, by simpa using hd.milestone (.foundArmProcessor idcode)⟩, hs, ?_⟩
  rw [milestones_log_normal, hm, hd.wire.verbosity]

/-- Polls whose words do not acknowledge, and then the rest of the loop (R225). -/
theorem pollLoop_run (ps : List (Nat × Word)) (hp : Pending ps) (rest : Nat) (last : Word) (s0 s : State) (m q : Nat)
    (h0 : Stage s0 s m q) (ls : List Bool) (h : s.shows (readLevels ps ++ ls)) :
    ∃ t last', pollLoop Config.params (ps.length + rest) last s = pollLoop Config.params rest last' t ∧
      Stage s0 t (m + (readLevels ps).length) (q + totalPulses ps) ∧ t.selcache = s.selcache ∧
      t.milestones = s.milestones ∧ t.shows ls := by
  induction ps generalizing last s m q with
  | nil => exact ⟨s, last, by rw [List.length_nil, Nat.zero_add], by simpa using h0, rfl, rfl, h⟩
  | cons p ps ih =>
    rw [readLevels_cons, List.append_assoc] at h
    obtain ⟨h1, -⟩ := (shows_append _ _ _).mp h
    obtain ⟨hk, ha⟩ := hp p (by simp)
    obtain ⟨t, ht, hd⟩ := dpRead_succeeds Config.params.dpCtrlstat false p.1 hk p.2 s h1
    have hs := dpRead_selcache Config.params.dpCtrlstat false s
    have hm := dpRead_milestones Config.params.dpCtrlstat false s
    rw [ht] at hs hm
    have hst : Stage s t (readAnswer p.1 p.2).length (transactionPulses p.1) := ⟨_, by simpa using hd⟩
    obtain ⟨u, last', hu, hst', hsu, hmu, hls⟩ := ih (fun p' hp' => hp p' (by simp [hp'])) p.2 t _ _ (h0.trans hst)
      (hst.shows h)
    refine ⟨u, last', ?_, by simpa [Nat.add_assoc] using hst', hsu.trans hs, hmu.trans hm, hls⟩
    rw [List.length_cons, Nat.add_right_comm, pollLoop, ht]
    simp only [andThen, ha, Bool.false_eq_true, if_false]
    exact hu

/-- The power-up request of step 5 (R225). -/
theorem powerUp_write (k : Nat) (hk : k < Config.params.waitAttempts) (s : State) (ls : List Bool)
    (h : s.shows (writeAnswer k ++ ls)) :
    ∃ t, dpWrite Config.params Config.params.dpCtrlstat false Config.params.pwrupReq s = (.ok (), t) ∧
      Stage s t (writeAnswer k).length (transactionPulses k) ∧ t.selcache = s.selcache ∧
      t.milestones = s.milestones ∧ t.shows ls := by
  obtain ⟨t, ht, hd⟩ := dpWrite_succeeds Config.params.dpCtrlstat false Config.params.pwrupReq k hk s
    ((shows_append _ _ _).mp h).1
  have hs := dpWrite_selcache Config.params.dpCtrlstat false Config.params.pwrupReq s
  have hm := dpWrite_milestones Config.params.dpCtrlstat false Config.params.pwrupReq s
  rw [ht] at hs hm
  have hst : Stage s t (writeAnswer k).length (transactionPulses k) := ⟨_, by simpa using hd⟩
  exact ⟨t, ht, hst, hs, hm, hst.shows h⟩

/-- Step 5 passed (R225). -/
theorem step5_pass (k : Nat) (hk : k < Config.params.waitAttempts) (ps : List (Nat × Word)) (hp : Pending ps)
    (hl : ps.length < Config.params.powerupPolls) (j : Nat) (hj : j < Config.params.waitAttempts) (v : Word)
    (hv : powerUpAcknowledged Config.params v = true) (s : State) (ls : List Bool)
    (h : s.shows (writeAnswer k ++ (readLevels ps ++ (readAnswer j v ++ ls)))) :
    ∃ t, linkStep5 Config.params s = (.ok (), t) ∧
      Stage s t ((writeAnswer k).length + (readLevels ps).length + (readAnswer j v).length)
        (transactionPulses k + totalPulses ps + transactionPulses j) ∧
      t.selcache = s.selcache ∧ t.milestones = s.milestones ∧ t.shows ls := by
  obtain ⟨t, ht, hst, hs, hm, h1⟩ := powerUp_write k hk s _ h
  obtain ⟨r, hr⟩ : ∃ r, Config.params.powerupPolls = ps.length + (r + 1) :=
    ⟨Config.params.powerupPolls - ps.length - 1, by omega⟩
  obtain ⟨u, last, hu, hst2, hsu, hmu, h2⟩ := pollLoop_run ps hp (r + 1) 0 s t _ _ hst _ h1
  obtain ⟨x, hx, hd⟩ := dpRead_succeeds Config.params.dpCtrlstat false j hj v u ((shows_append _ _ _).mp h2).1
  have hsx := dpRead_selcache Config.params.dpCtrlstat false u
  have hmx := dpRead_milestones Config.params.dpCtrlstat false u
  rw [hx] at hsx hmx
  have hst3 : Stage u x (readAnswer j v).length (transactionPulses j) := ⟨_, by simpa using hd⟩
  refine ⟨x, ?_, hst2.trans hst3, hsx.trans (hsu.trans hs), hmx.trans (hmu.trans hm), hst3.shows h2⟩
  rw [linkStep5, ht]
  simp only [andThen]
  rw [hr, hu, pollLoop, hx]
  simp [andThen, hv]

/-- The selections of IDR and CSW of the default port, and that neither is the sentinel (R25, R226, R227). -/
theorem selectValue_idr : selectValue Config.params.defaultPort Config.params.apIdr = 0xF0 := by decide

theorem selectValue_csw : selectValue Config.params.defaultPort Config.params.apCsw = 0 := by decide

/-- Where steps 3 to 7 stand after step 5. -/
theorem poweredUp_pass {ls : List Bool} {n : Nat} {idcode : Word} (hp : PoweredUp ls n idcode) (s : State)
    (rest : List Bool) (h : s.shows (ls ++ rest)) :
    ∃ t u v, linkStep3 Config.params s = (.ok idcode, t) ∧ linkStep4 Config.params idcode t = (.ok (), u) ∧
      linkStep5 Config.params u = (.ok (), v) ∧ Stage s v ls.length n ∧ v.selcache = s.selcache ∧
      v.milestones = (s.milestones ++ if Level.normal.passes s.verbosity then [⟨.normal, .foundArmProcessor idcode⟩]
        else []) ∧ v.shows rest := by
  obtain ⟨l0, n0, _, k, ps, j, v, h0, hk, hps, hl, hj, hv⟩ := hp
  simp only [List.append_assoc] at h
  obtain ⟨t, u, ht, hu, hst, hsu, hmu⟩ := steps34_pass h0 s ((shows_append _ _ _).mp h).1
  obtain ⟨x, hx, hst2, hsx, hmx, hls⟩ := step5_pass k hk ps hps hl j hj v hv u rest (hst.shows h)
  refine ⟨t, u, x, ht, hu, hx, ?_, hsx.trans hsu, hmx.trans hmu, hls⟩
  simpa [Nat.add_assoc] using hst.trans hst2

/-- The SELECT write a miss needs, as `selectLevels` and `selectPulses` say it. -/
theorem selectLevels_miss (s : State) (sel : Word) (j : Nat) (h : sel ≠ s.selcache) :
    selectLevels s sel j = writeAnswer j := by simp [selectLevels, h]

theorem selectPulses_miss (s : State) (sel : Word) (j : Nat) (h : sel ≠ s.selcache) :
    selectPulses s sel j = transactionPulses j := by simp [selectPulses, h]

/-- The IDR access of step 6 on an invalid cache (R226). -/
theorem idr_read (k j : Nat) (hk : k < Config.params.waitAttempts) (hj : j < Config.params.waitAttempts) (idr : Word)
    (s : State) (hc : s.selcache = 0xFFFFFFFF) (ls : List Bool)
    (h : s.shows (writeAnswer k ++ (readAnswer j idr ++ ls))) :
    ∃ t, apRead Config.params Config.params.defaultPort Config.params.apIdr s = (.ok idr, t) ∧ t.selcache = 0xF0 ∧
      t.milestones = s.milestones ∧
      Stage s t ((writeAnswer k).length + (readAnswer j idr).length) (transactionPulses k + transactionPulses j) ∧
      t.shows ls := by
  have hm : selectValue Config.params.defaultPort Config.params.apIdr ≠ s.selcache := by
    rw [hc, selectValue_idr]; decide
  rw [← List.append_assoc] at h
  obtain ⟨t, ht, hsel, hd⟩ := apRead_succeeds Config.params.defaultPort Config.params.apIdr k j hk hj idr s
    (by rw [selectLevels_miss _ _ _ hm]; exact ((shows_append _ _ _).mp h).1)
  have hmi := apRead_milestones Config.params.defaultPort Config.params.apIdr s
  rw [ht] at hmi
  rw [selectLevels_miss _ _ _ hm, selectPulses_miss _ _ _ hm] at hd
  have hst : Stage s t (writeAnswer k ++ readAnswer j idr).length (transactionPulses k + transactionPulses j) :=
    ⟨_, by simpa using hd⟩
  exact ⟨t, ht, hsel.trans selectValue_idr, hmi, by simpa using hst, hst.shows h⟩

/-- Where steps 3 to 7 stand after step 6. -/
theorem typeChecked_pass {ls : List Bool} {n : Nat} {idcode : Word} (hp : TypeChecked ls n idcode) (s : State)
    (hc : s.selcache = 0xFFFFFFFF) (rest : List Bool) (h : s.shows (ls ++ rest)) :
    ∃ t u v w, linkStep3 Config.params s = (.ok idcode, t) ∧ linkStep4 Config.params idcode t = (.ok (), u) ∧
      linkStep5 Config.params u = (.ok (), v) ∧ linkStep6 Config.params v = (.ok (), w) ∧ Stage s w ls.length n ∧
      w.selcache = 0xF0 ∧
      w.milestones = (s.milestones ++ if Level.normal.passes s.verbosity then [⟨.normal, .foundArmProcessor idcode⟩]
        else []) ∧ w.shows rest := by
  obtain ⟨l0, n0, _, k, j, idr, h0, hk, hj, hi⟩ := hp
  simp only [List.append_assoc] at h
  obtain ⟨t, u, v, ht, hu, hv, hst, hsv, hmv, hls⟩ := poweredUp_pass h0 s _ h
  obtain ⟨w, hw, hsw, hmw, hst2, hls2⟩ := idr_read k j hk hj idr v (hsv.trans hc) rest hls
  refine ⟨t, u, v, w, ht, hu, hv, ?_, ?_, hsw, hmw.trans hmv, hls2⟩
  · rw [linkStep6, hw]; simp [andThen, hi]
  · simpa [Nat.add_assoc] using hst.trans hst2

/-! ### Every case at once -/

/-- A run that raises after complete attempts. -/
theorem ended_raise {α : Type} {K : ErrorKind → Prop} {s t : State} {m p : Nat} {b : List (Option Bool)} (f : Failure)
    (h : Done s t m p [] b) (hk : K f.kind) : Ended K s (raise f t : Run α) :=
  ⟨⟨_, _, _, _, h.raised (.failure f), f, rfl, rfl⟩, fun e he => by cases he; exact hk⟩

/-- Every kind but the one `initialize` re-labels with (R223). -/
def LaterKind (e : ErrorKind) : Prop := e ≠ .noDeviceDetected

theorem WriteKind.later {e : ErrorKind} (h : WriteKind e) : LaterKind e := by
  rcases h with rfl | rfl | rfl <;> simp [LaterKind]

theorem ReadKind.later {e : ErrorKind} (h : ReadKind e) : LaterKind e := by
  rcases h with h | rfl
  · exact h.later
  · simp [LaterKind]

theorem ended_pollLoop (n : Nat) (last : Word) (s0 s : State) (m p : Nat) (b : List (Option Bool))
    (h : Done s0 s m p [] b) : Ended LaterKind s0 (pollLoop Config.params n last s) := by
  induction n generalizing last s m p b with
  | zero => exact ended_raise _ h (by simp [LaterKind, Failure.kind])
  | succ n ih =>
    rw [pollLoop]
    obtain ⟨⟨m', p', ds, b', hd, hr⟩, hk⟩ := ended_dpRead Config.params.dpCtrlstat false s
    rcases hx : dpRead Config.params Config.params.dpCtrlstat false s with ⟨e | v, t⟩ <;> rw [hx] at hd hr hk
    · exact ⟨⟨_, _, _, _, h.trans hd, hr⟩, fun e' he => by cases he; exact (hk e rfl).later⟩
    · cases hr
      simp only [andThen]
      split
      · exact ⟨⟨_, _, _, _, h.trans hd, rfl⟩, fun _ he => by cases he⟩
      · exact ih v t _ _ _ (h.trans hd)

theorem ended_linkStep5 (s : State) : Ended LaterKind s (linkStep5 Config.params s) := by
  rw [linkStep5]
  obtain ⟨⟨m, p, ds, b, hd, hr⟩, hk⟩ := ended_dpWrite Config.params.dpCtrlstat false Config.params.pwrupReq s
  rcases hx : dpWrite Config.params Config.params.dpCtrlstat false Config.params.pwrupReq s with ⟨e | v, t⟩ <;>
    rw [hx] at hd hr hk
  · exact ⟨⟨_, _, _, _, hd, hr⟩, fun e' he => by cases he; exact (hk e rfl).later⟩
  · cases hr
    exact ended_pollLoop _ _ _ _ _ _ _ hd

theorem ended_linkStep6 (s : State) : Ended LaterKind s (linkStep6 Config.params s) := by
  rw [linkStep6]
  obtain ⟨⟨m, p, ds, b, hd, hr⟩, hk⟩ := ended_apRead Config.params.defaultPort Config.params.apIdr s
  rcases hx : apRead Config.params Config.params.defaultPort Config.params.apIdr s with ⟨e | v, t⟩ <;>
    rw [hx] at hd hr hk
  · exact ⟨⟨_, _, _, _, hd, hr⟩, fun e' he => by cases he; exact (hk e rfl).later⟩
  · cases hr
    simp only [andThen]
    split
    · exact ⟨⟨_, _, _, _, hd, rfl⟩, fun _ he => by cases he⟩
    · exact ended_raise _ hd (by simp [LaterKind, Failure.kind])

/-- Steps 5 to 7, without the ready flag. -/
def lastSteps (s : State) : Run Unit :=
  andThen (linkStep5 Config.params s) fun _ s5 =>
  andThen (linkStep6 Config.params s5) fun _ s6 => linkStep7 Config.params s6

theorem ended_lastSteps (s : State) : Ended LaterKind s (lastSteps s) :=
  (ended_linkStep5 s).andThen (K' := LaterKind)
    (fun _ t _ => .inl ((ended_linkStep6 t).andThen (K' := WriteKind) (fun _ u _ => .inl (ended_apWrite _ _ _ u))
      (fun _ h => h) (fun _ h => h.later)))
    (fun _ h => h) (fun _ h => h)

/-- A link that came up has CSW's selection cached (R227). -/
theorem lastSteps_selcache (s u : State) (h : lastSteps s = (.ok (), u)) : u.selcache = 0 := by
  rw [lastSteps] at h
  rcases h5 : linkStep5 Config.params s with ⟨_ | _, t⟩ <;> rw [h5] at h
  · cases h
  simp only [andThen] at h
  rcases h6 : linkStep6 Config.params t with ⟨_ | _, v⟩ <;> rw [h6] at h
  · cases h
  simp only [linkStep7] at h
  have hs := (apWrite_selcache Config.params.defaultPort Config.params.apCsw Config.params.cswDefault v).2
  rw [h] at hs
  exact (hs rfl).trans selectValue_csw

/-- Steps 3 to 7 are their parts, the flag after them. -/
theorem bringUp_eq (s : State) :
    bringUp Config.params s = andThen (linkStep3 Config.params s) fun idcode s3 =>
      andThen (linkStep4 Config.params idcode s3) fun _ s4 =>
      andThen (lastSteps s4) fun _ s7 => (.ok (), markReady s7) := by
  rw [bringUp]
  congr 1
  funext idcode s3
  congr 1
  funext _ s4
  rw [lastSteps]
  rcases linkStep5 Config.params s4 with ⟨_ | _, t⟩
  · rfl
  · simp only [andThen]
    rcases linkStep6 Config.params t with ⟨_ | _, u⟩ <;> rfl

/-- The polls do not select (R225). -/
theorem pollLoop_selcache (n : Nat) (last : Word) (s : State) :
    (pollLoop Config.params n last s).2.selcache = s.selcache := by
  induction n generalizing last s with
  | zero => rfl
  | succ n ih =>
    rw [pollLoop]
    have h := dpRead_selcache Config.params.dpCtrlstat false s
    rcases hr : dpRead Config.params Config.params.dpCtrlstat false s with ⟨_ | v, t⟩ <;> rw [hr] at h
    · exact h
    · simp only [andThen]
      split
      · exact h
      · exact (ih v t).trans h

/-- Steps 5 to 7 leave the cache as it was, or at the selection of step 6 or 7, whatever is answered (R225 to R227). -/
theorem lastSteps_selection (s : State) :
    (lastSteps s).2.selcache = s.selcache ∨ (lastSteps s).2.selcache = 0xF0 ∨ (lastSteps s).2.selcache = 0 := by
  rw [lastSteps]
  have h5 : (linkStep5 Config.params s).2.selcache = s.selcache := by
    rw [linkStep5]
    have h := dpWrite_selcache Config.params.dpCtrlstat false Config.params.pwrupReq s
    rcases hw : dpWrite Config.params Config.params.dpCtrlstat false Config.params.pwrupReq s with ⟨_ | _, t⟩ <;>
      rw [hw] at h
    · exact h
    · exact (pollLoop_selcache _ _ t).trans h
  rcases hx : linkStep5 Config.params s with ⟨_ | _, t⟩ <;> rw [hx] at h5
  · exact .inl h5
  simp only [andThen]
  have h6 : (linkStep6 Config.params t).2.selcache = s.selcache ∨ (linkStep6 Config.params t).2.selcache = 0xF0 := by
    rw [linkStep6]
    have h := (apRead_selcache Config.params.defaultPort Config.params.apIdr t).1
    rw [h5] at h
    rcases hr : apRead Config.params Config.params.defaultPort Config.params.apIdr t with ⟨_ | v, u⟩ <;> rw [hr] at h
    · exact h
    · simp only [andThen]
      split <;> exact h
  rcases hy : linkStep6 Config.params t with ⟨_ | _, u⟩ <;> rw [hy] at h6
  · exact h6.imp_right .inl
  · have h := (apWrite_selcache Config.params.defaultPort Config.params.apCsw Config.params.cswDefault u).1
    rw [selectValue_csw] at h
    rcases h with h | h
    · exact (h6.imp h.trans h.trans).imp_right .inl
    · exact .inr (.inr h)

/-- What `initialize` leaves in the cache after step 1's sentinel, whatever is answered (R223 to R227). -/
theorem bringUp_selection (s : State) :
    (bringUp Config.params s).2.selcache = s.selcache ∨ (bringUp Config.params s).2.selcache = 0xF0 ∨
      (bringUp Config.params s).2.selcache = 0 := by
  rw [bringUp_eq, linkStep3]
  have h := dpRead_selcache Config.params.dpIdcode false s
  rcases hr : dpRead Config.params Config.params.dpIdcode false s with ⟨_ | v, t⟩ <;> rw [hr] at h
  · exact .inl h
  rw [← h]
  by_cases hi : idcodeRecognized Config.params v = true
  · have hl := lastSteps_selection (log .normal (.foundArmProcessor v) t)
    simp only [andThen, linkStep4, if_pos hi]
    rcases hx : lastSteps (log .normal (.foundArmProcessor v) t) with ⟨_ | _, u⟩ <;> rw [hx] at hl <;> exact hl
  · simp only [andThen, linkStep4, if_neg hi]
    exact .inl rfl

end Sys2Proof.Machine
end

