-- ==== Sys2Proof/Laws/Exec.lean ====
section
/-! SUPPORT. What a whole command can do, said once per kind of command: those that make a transaction, INITIALIZE, and
those that make none. The whole-machine claims follow from these three laws. -/

namespace Sys2Proof.Machine

/-- A command that left `u` and the error-level diagnostics `errs` presents its result in `t`: success and no diagnostic,
or the kind of its one diagnostic (R41, R262, R263). -/
structure Closing (u t : State) (errs : List Diag) (kinds : ErrorKind → Prop) : Prop where
  same : t = { u with result := t.result, freeCount := t.freeCount, loadBuffer := t.loadBuffer }
  ended : (errs = [] ∧ t.Succeeded) ∨ ∃ f : Failure, errs = [⟨.error, .failure f⟩] ∧ kinds f.kind ∧ t.FailedWith f.kind

theorem closing_done {r : Run Unit} {t : State} {errs : List Diag} {K L : ErrorKind → Prop}
    (he : finishDone r = .next t) (hr : Reported r.1 errs) (hk : ∀ e, r.1 = .error e → K e) (hl : ∀ e, K e → L e) :
    Closing r.2 t errs L ∧ t.loadBuffer = r.2.loadBuffer := by
  obtain ⟨e | a, u⟩ := r
  · obtain ⟨f, rfl, rfl⟩ := hr
    cases he
    exact ⟨⟨rfl, .inr ⟨f, rfl, hl _ (hk _ rfl), rfl, rfl⟩⟩, rfl⟩
  · cases hr
    cases he
    exact ⟨⟨rfl, .inl ⟨rfl, rfl, rfl⟩⟩, rfl⟩

theorem closing_word {r : Run Word} {t : State} {errs : List Diag} {K L : ErrorKind → Prop}
    (he : finishWord r = .next t) (hr : Reported r.1 errs) (hk : ∀ e, r.1 = .error e → K e) (hl : ∀ e, K e → L e) :
    Closing r.2 t errs L ∧ t.loadBuffer = r.2.loadBuffer := by
  obtain ⟨e | a, u⟩ := r
  · obtain ⟨f, rfl, rfl⟩ := hr
    cases he
    exact ⟨⟨rfl, .inr ⟨f, rfl, hl _ (hk _ rfl), rfl, rfl⟩⟩, rfl⟩
  · cases hr
    cases he
    exact ⟨⟨rfl, .inl ⟨rfl, rfl, rfl⟩⟩, rfl⟩

theorem closing_buffer {n : Nat} {r : Run (List Word)} {t : State} {errs : List Diag} {K L : ErrorKind → Prop}
    (he : finishBuffer n r = .next t) (hr : Reported r.1 errs) (hk : ∀ e, r.1 = .error e → K e) (hl : ∀ e, K e → L e) :
    Closing r.2 t errs L := by
  obtain ⟨e | a, u⟩ := r
  · obtain ⟨f, rfl, rfl⟩ := hr
    cases he
    exact ⟨rfl, .inr ⟨f, rfl, hl _ (hk _ rfl), rfl, rfl⟩⟩
  · cases hr
    cases he
    exact ⟨rfl, .inl ⟨rfl, rfl, rfl⟩⟩

/-- Ending a command always gives a next state. -/
theorem finishDone_next (r : Run Unit) : ∃ t, finishDone r = .next t := by
  rcases r with ⟨_ | _, _⟩ <;> exact ⟨_, rfl⟩

theorem finishWord_next (r : Run Word) : ∃ t, finishWord r = .next t := by
  rcases r with ⟨_ | _, _⟩ <;> exact ⟨_, rfl⟩

theorem finishBuffer_next (n : Nat) (r : Run (List Word)) : ∃ t, finishBuffer n r = .next t := by
  rcases r with ⟨_ | _, _⟩ <;> exact ⟨_, rfl⟩

/-- Every guard that lets a command run. -/
theorem requirePins_next {s t : State} {k : Host.Outcome State Fault Refusal} (h : requirePins s k = .next t) :
    s.pinsReady = true ∧ k = .next t := by
  unfold requirePins at h
  split at h
  · exact ⟨by assumption, h⟩
  · cases h

theorem requireLegal_next {b : Bool} {r : Refusal} {t : State} {k : Host.Outcome State Fault Refusal}
    (h : requireLegal b r k = .next t) : b = true ∧ k = .next t := by
  unfold requireLegal at h
  split at h
  · exact ⟨by assumption, h⟩
  · cases h

/-- The legal range of a port, as the spec says it (R202). -/
theorem portLegal_iff (port : BitVec 8) :
    portLegal Config.params port = true ↔ port.toNat < Config.params.numPorts := decide_eq_true_iff

/-- What a command that makes a transaction does, INITIALIZE apart: it starts from the state it was given, its attempts
end framed, and it presents what it reported. -/
structure Transacted (i : Instr) (s t : State) : Prop where
  pins : s.pinsReady = true
  law : ∃ u used pulses errs bits, Done s u used pulses errs bits ∧ Closing u t errs (fun e => mayEndWith i e = true)
  buffer : (∀ address count, i ≠ .memLoadN address count) → t.loadBuffer = s.loadBuffer

theorem transacted_done {i : Instr} {s t : State} {K : ErrorKind → Prop} {r : Run Unit} (hp : s.pinsReady = true)
    (he : finishDone r = .next t) (hr : Ended K s r) (hk : ∀ e, K e → mayEndWith i e = true) : Transacted i s t := by
  obtain ⟨⟨m, p, ds, b, hd, hrep⟩, hk'⟩ := hr
  obtain ⟨hc, hb⟩ := closing_done he hrep hk' hk
  exact ⟨hp, ⟨_, _, _, _, _, hd, hc⟩, fun _ => hb.trans hd.wire.loadBuffer⟩

theorem transacted_word {i : Instr} {s t : State} {K : ErrorKind → Prop} {r : Run Word} (hp : s.pinsReady = true)
    (he : finishWord r = .next t) (hr : Ended K s r) (hk : ∀ e, K e → mayEndWith i e = true) : Transacted i s t := by
  obtain ⟨⟨m, p, ds, b, hd, hrep⟩, hk'⟩ := hr
  obtain ⟨hc, hb⟩ := closing_word he hrep hk' hk
  exact ⟨hp, ⟨_, _, _, _, _, hd, hc⟩, fun _ => hb.trans hd.wire.loadBuffer⟩

/-- The commands of layers 2 to 4 but INITIALIZE. -/
theorem exec_transacted (i : Instr) (s t : State) (hm : makesTransaction i = true)
    (hi : ∀ clk dio v, i ≠ .linkInit clk dio v) (he : exec i s = .next t) : Transacted i s t := by
  cases i
  case dpWrite a p w =>
    obtain ⟨hp, h⟩ := requirePins_next he
    exact transacted_done hp h (ended_dpWrite a p w s) (by rintro e (rfl | rfl | rfl) <;> rfl)
  case dpRead a p =>
    obtain ⟨hp, h⟩ := requirePins_next he
    exact transacted_word hp h (ended_dpRead a p s) (by rintro e ((rfl | rfl | rfl) | rfl) <;> rfl)
  case reqDpWrite a3 a2 w =>
    obtain ⟨hp, h⟩ := requirePins_next he
    exact transacted_done hp h (ended_dpWrite _ _ w s) (by rintro e (rfl | rfl | rfl) <;> rfl)
  case reqDpRead a3 a2 =>
    obtain ⟨hp, h⟩ := requirePins_next he
    exact transacted_word hp h (ended_dpRead _ _ s) (by rintro e ((rfl | rfl | rfl) | rfl) <;> rfl)
  case reqApWrite a3 a2 w =>
    obtain ⟨hp, h⟩ := requirePins_next he
    exact transacted_done hp h (ended_dpWrite _ _ w s) (by rintro e (rfl | rfl | rfl) <;> rfl)
  case reqApRead a3 a2 =>
    obtain ⟨hp, h⟩ := requirePins_next he
    exact transacted_word hp h (ended_dpRead _ _ s) (by rintro e ((rfl | rfl | rfl) | rfl) <;> rfl)
  case apWrite port a w =>
    obtain ⟨hp, h⟩ := requirePins_next he
    exact transacted_done hp (requireLegal_next h).2 (ended_apWrite port a w s) (by rintro e (rfl | rfl | rfl) <;> rfl)
  case apRead port a =>
    obtain ⟨hp, h⟩ := requirePins_next he
    exact transacted_word hp (requireLegal_next h).2 (ended_apRead port a s)
      (by rintro e ((rfl | rfl | rfl) | rfl) <;> rfl)
  case memStore a w =>
    obtain ⟨hp, h⟩ := requirePins_next he
    exact transacted_done hp h (ended_memoryStore a [w] s) (by rintro e (rfl | rfl | rfl) <;> rfl)
  case memLoad a =>
    obtain ⟨hp, h⟩ := requirePins_next he
    refine transacted_word (K := ReadKind) hp h ?_ (by rintro e ((rfl | rfl | rfl) | rfl) <;> rfl)
    obtain ⟨⟨m, p, ds, b, hd, hr⟩, hk⟩ := ended_memoryLoad a 1 s
    rcases hx : memoryLoad Config.params a 1 s with ⟨e | ws, u⟩ <;> rw [hx] at hd hr hk
    · exact ⟨⟨_, _, _, _, hd, hr⟩, fun e' he' => by cases he'; exact hk e rfl⟩
    · exact ⟨⟨_, _, _, _, hd, hr⟩, fun e' he' => by cases he'⟩
  case memStoreN a n ws =>
    obtain ⟨hp, h⟩ := requirePins_next he
    exact transacted_done hp (requireLegal_next h).2 (ended_memoryStore a ws s) (by rintro e (rfl | rfl | rfl) <;> rfl)
  case memLoadN a n =>
    obtain ⟨hp, h⟩ := requirePins_next he
    obtain ⟨⟨m, p, ds, b, hd, hr⟩, hk⟩ := ended_memoryLoad a n.toNat s
    exact ⟨hp, ⟨_, _, _, _, _, hd, closing_buffer h hr hk (by rintro e ((rfl | rfl | rfl) | rfl) <;> rfl)⟩,
      fun hb => absurd rfl (hb a n)⟩
  case linkInit clk dio v => exact absurd rfl (hi clk dio v)
  all_goals simp [makesTransaction] at hm

/-- What the first two steps of `initialize` leave (R221, R222). -/
structure Begun (s u : State) (clk dio : PinId) (l : Level) : Prop where
  clkPin : u.clkPin = clk
  dioPin : u.dioPin = dio
  verbosity : u.verbosity = l
  linkReady : u.linkReady = false
  pinsReady : u.pinsReady = true
  selcache : u.selcache = Config.params.selcacheInvalid
  targetScript : u.targetScript = s.targetScript
  hostScript : u.hostScript = s.hostScript
  loadBuffer : u.loadBuffer = s.loadBuffer
  errors : u.errorEvents = s.errorEvents
  milestones : u.milestones = s.milestones
  gpio : ∃ es, u.gpio = s.gpio ++ es ∧ pulseCount es = bringupPulses
  diag : s.diag <+: u.diag

theorem begun (s : State) (clk dio : PinId) (l : Level) :
    Begun s (linkStep2 Config.params (linkStep1 Config.params clk dio l s)) clk dio l := by
  have w := wire_linkStep2 (linkStep1 Config.params clk dio l s)
  obtain ⟨es, he, -, hc⟩ := w.acts
  refine ⟨w.clkPin, w.dioPin, w.verbosity, w.linkReady, w.pinsReady, by simp, by simpa using w.target, w.hostScript,
    w.loadBuffer, ?_, ?_, ?_, w.diag⟩
  · have := w.errors
    rw [List.append_nil] at this
    exact this
  · rw [linkStep2_milestones]; rfl
  · refine ⟨_, by rw [he, linkStep1_gpio, List.append_assoc], ?_⟩
    rw [pulseCount_append, hc]
    simp [pulseCount, isPulse]

/-- The pulses from before `initialize` to after it. -/
theorem Begun.pulsesSince {s u t : State} {clk dio : PinId} {l : Level} {m p : Nat} {ds : List Diag}
    (h : Begun s u clk dio l) (hw : Wire u t m p ds) : Machine.pulsesSince s t = bringupPulses + p := by
  obtain ⟨es, he, hc⟩ := h.gpio
  obtain ⟨fs, hf, -, hcf⟩ := hw.acts
  rw [Machine.pulsesSince, actionsSince, hf, he, List.append_assoc, List.drop_left, pulseCount_append, hc, hcf]

/-- What the steps after the sequence do, whatever is answered: complete attempts, then the ready flag if they all
passed, and the diagnostics of R223 and R262. -/
theorem bringUp_cases (s : State) :
    ∃ u used pulses errs bits, Done s u used pulses errs bits ∧
      ((bringUp Config.params s = (.ok (), markReady u) ∧ errs = [] ∧ u.selcache = 0) ∨
        ∃ f : Failure, bringUp Config.params s = (.error f.kind, u) ∧
          ((f.kind ≠ .noDeviceDetected ∧ errs = [⟨.error, .failure f⟩]) ∨
            ∃ g : Failure, f.kind = .noDeviceDetected ∧ errs = [⟨.error, .failure g⟩, ⟨.error, .failure f⟩])) := by
  rw [bringUp_eq, linkStep3]
  obtain ⟨⟨m, p, ds, b, hd, hr⟩, -⟩ := ended_dpRead Config.params.dpIdcode false s
  rcases hx : dpRead Config.params Config.params.dpIdcode false s with ⟨e | w, t⟩ <;> rw [hx] at hd hr
  · obtain ⟨g, -, rfl⟩ := hr
    exact ⟨_, _, _, _, _, hd.raised (.failure (.noDeviceDetected e)), .inr ⟨.noDeviceDetected e, rfl, .inr ⟨g, rfl, rfl⟩⟩⟩
  cases hr
  simp only [andThen, linkStep4]
  by_cases hi : idcodeRecognized Config.params w = true
  · simp only [if_pos hi]
    have hd' := hd.milestone (.foundArmProcessor w)
    obtain ⟨⟨m', p', ds', b', hd2, hr2⟩, hk⟩ := ended_lastSteps (log .normal (.foundArmProcessor w) t)
    rcases hy : lastSteps (log .normal (.foundArmProcessor w) t) with ⟨e | _, v⟩ <;> rw [hy] at hd2 hr2 hk
    · obtain ⟨f, rfl, rfl⟩ := hr2
      exact ⟨_, _, _, _, _, hd'.trans hd2, .inr ⟨f, rfl, .inl ⟨hk _ rfl, rfl⟩⟩⟩
    · cases hr2
      exact ⟨_, _, _, _, _, hd'.trans hd2, .inl ⟨rfl, rfl, lastSteps_selcache _ _ hy⟩⟩
  · simp only [if_neg hi, raise]
    exact ⟨_, _, _, _, _, hd.raised (.failure (.unrecognizedPart w)),
      .inr ⟨.unrecognizedPart w, rfl, .inl ⟨by simp [Failure.kind], rfl⟩⟩⟩

/-- What INITIALIZE does, whatever is answered. -/
theorem exec_linkInit (clk dio : PinId) (v : BitVec 2) (s t : State) (he : exec (.linkInit clk dio v) s = .next t) :
    ∃ l s2 u used pulses errs bits, levelOf Config.params v = some l ∧ Begun s s2 clk dio l ∧ Done s2 u used pulses errs bits ∧
      ((t = presentDone (markReady u) ∧ errs = [] ∧ u.selcache = 0) ∨
        ∃ f : Failure, t = presentFail f.kind u ∧
          ((f.kind ≠ .noDeviceDetected ∧ errs = [⟨.error, .failure f⟩]) ∨
            ∃ g : Failure, f.kind = .noDeviceDetected ∧ errs = [⟨.error, .failure g⟩, ⟨.error, .failure f⟩])) := by
  simp only [exec, execLinkInit] at he
  cases hl : levelOf Config.params v with
  | none => rw [hl] at he; cases he
  | some l =>
    rw [hl] at he
    simp only [linkInitialize] at he
    obtain ⟨u, m, p, ds, b, hd, h⟩ := bringUp_cases (linkStep2 Config.params (linkStep1 Config.params clk dio l s))
    refine ⟨l, _, u, m, p, ds, b, rfl, begun s clk dio l, hd, ?_⟩
    rcases h with ⟨hb, h⟩ | ⟨f, hb, h⟩ <;> rw [hb] at he <;> cases he
    · exact .inl ⟨rfl, h⟩
    · exact .inr ⟨f, rfl, h⟩

/-- What AP_SELECT does: nothing on the wire on a hit, one transaction otherwise. -/
theorem exec_apSelect (port : BitVec 8) (addr : Word) (s t : State) (he : exec (.apSelect port addr) s = .next t) :
    s.pinsReady = true ∧ port.toNat < Config.params.numPorts ∧
    ((selectValue port addr = s.selcache ∧ t = presentDone s) ∨
      ∃ u used pulses errs bits, Done s u used pulses errs bits ∧
        Closing u t errs (fun e => mayEndWith (.apSelect port addr) e = true) ∧ t.loadBuffer = s.loadBuffer) := by
  obtain ⟨hp, h⟩ := requirePins_next he
  obtain ⟨hl, h⟩ := requireLegal_next h
  refine ⟨hp, (portLegal_iff port).mp hl, ?_⟩
  by_cases hm : selectValue port addr = s.selcache
  · rw [select_hit _ _ _ hm] at h
    cases h
    exact .inl ⟨hm, rfl⟩
  · right
    rcases ended_select port addr s with hr | ⟨hs, -⟩
    · obtain ⟨⟨m, p, ds, b, hd, hrep⟩, hk⟩ := hr
      obtain ⟨hc, hb⟩ := closing_done h hrep hk (L := fun e => mayEndWith (.apSelect port addr) e = true)
        (by rintro e (rfl | rfl | rfl) <;> rfl)
      exact ⟨_, _, _, _, _, hd, hc, hb.trans hd.wire.loadBuffer⟩
    · have h1 := select_selcache port addr s
      rcases hx : selectAccessPort Config.params port addr s with ⟨e | _, u⟩ <;> rw [hx] at h1 hs h
      · rcases ended_select port addr s with hr | ⟨-, a, ha⟩
        · obtain ⟨⟨m, p, ds, b, hd, hrep⟩, hk⟩ := hr
          rw [hx] at hd hrep hk
          obtain ⟨hc, hb⟩ := closing_done h hrep hk (L := fun e => mayEndWith (.apSelect port addr) e = true)
            (by rintro e (rfl | rfl | rfl) <;> rfl)
          exact ⟨_, _, _, _, _, hd, hc, hb.trans hd.wire.loadBuffer⟩
        · rw [hx] at ha; cases ha
      · simp only at hs h1
        rw [hs] at h1
        exact absurd h1.symm hm

/-- The commands that run operations of layer 1 alone, or none: they succeed, emit no error-level diagnostic, leave the
link alone, and leave the clock resting high if it did (R131, R140). -/
structure Plain (i : Instr) (s t : State) : Prop where
  succeeded : t.Succeeded
  clkPin : t.clkPin = s.clkPin
  dioPin : t.dioPin = s.dioPin
  linkReady : t.linkReady = s.linkReady
  pinsReady : t.pinsReady = s.pinsReady
  selcache : t.selcache = s.selcache
  hostScript : t.hostScript = s.hostScript
  loadBuffer : t.loadBuffer = s.loadBuffer
  verbosity : (∀ l, i ≠ .setVerbosity l) → t.verbosity = s.verbosity
  errors : t.errorEvents = s.errorEvents
  clkLevel : s.clkLevel = true → t.clkLevel = true
  gpio : s.gpio <+: t.gpio
  diag : s.diag <+: t.diag
  script : ∃ n, t.targetScript = s.targetScript.drop n
  silent : needsPins i = false → t.gpio = s.gpio ∧ t.diag = s.diag ∧ t.targetScript = s.targetScript ∧
    t.clkLevel = s.clkLevel ∧ t.dioMode = s.dioMode ∧ t.dioLatch = s.dioLatch

/-- A wire operation, then its presentation. -/
theorem plain_of_wire {i : Instr} {s u t : State} {m p : Nat} (h : Wire s u m p []) (hs : u.selcache = s.selcache)
    (hc : s.clkLevel = true → u.clkLevel = true) (hi : needsPins i = true)
    (ht : t = { u with result := t.result, freeCount := t.freeCount }) (hok : t.Succeeded) : Plain i s t where
  succeeded := hok
  clkPin := by rw [ht]; exact h.clkPin
  dioPin := by rw [ht]; exact h.dioPin
  linkReady := by rw [ht]; exact h.linkReady
  pinsReady := by rw [ht]; exact h.pinsReady
  selcache := by rw [ht]; exact hs
  hostScript := by rw [ht]; exact h.hostScript
  loadBuffer := by rw [ht]; exact h.loadBuffer
  verbosity := fun _ => by rw [ht]; exact h.verbosity
  errors := by
    have := h.errors
    rw [List.append_nil] at this
    rw [ht]
    exact this
  clkLevel := fun h0 => by rw [ht]; exact hc h0
  gpio := by rw [ht]; exact h.gpio
  diag := by rw [ht]; exact h.diag
  script := ⟨m, by rw [ht]; exact h.target⟩
  silent := fun hn => by rw [hi] at hn; cases hn

/-- READ_BITS while the core drives the line (log 5). -/
theorem plain_readBits (n : Nat) (s : State) (m : BitVec 6) (w : Word) :
    Plain (.readBits m) s (presentWord w (readBits n s)) := by
  cases hm : s.dioMode with
  | inPU => exact plain_of_wire (wire_readBits n s hm) rfl (fun h => by simp [h]) rfl rfl ⟨rfl, rfl⟩
  | outPP =>
    refine ⟨⟨rfl, rfl⟩, rfl, rfl, rfl, rfl, rfl, rfl, rfl, fun _ => rfl, ?_, fun h => by simp [h], ?_, ?_, ⟨0, ?_⟩,
      fun hn => by cases hn⟩
    · exact errorEvents_log_trace _ (sampleBits n s)
    · exact List.prefix_append _ _
    · show s.diag <+: (log .trace _ (sampleBits n s)).diag
      rw [log_diag_eq]
      exact List.prefix_append _ _
    · simp [hm]

/-- The commands that make no transaction, AP_SELECT apart. -/
theorem exec_plain (i : Instr) (s t : State) (hm : makesTransaction i = false)
    (hi : ∀ port addr, i ≠ .apSelect port addr) (he : exec i s = .next t) : Plain i s t := by
  cases i
  case writeBits v n =>
    obtain ⟨-, h⟩ := requirePins_next he
    have h := (requireLegal_next h).2
    cases h
    exact plain_of_wire (wire_writeBits v n.toNat s) rfl (fun h => by simp [h]) rfl rfl ⟨rfl, rfl⟩
  case readBits n =>
    obtain ⟨-, h⟩ := requirePins_next he
    have h := (requireLegal_next h).2
    cases h
    exact plain_readBits n.toNat s n _
  case writeTurnaround =>
    obtain ⟨-, h⟩ := requirePins_next he
    cases h
    exact plain_of_wire (wire_writeTurnaround s) rfl (fun _ => rfl) rfl rfl ⟨rfl, rfl⟩
  case readTurnaround =>
    obtain ⟨-, h⟩ := requirePins_next he
    cases h
    exact plain_of_wire (wire_readTurnaround s) rfl (fun _ => rfl) rfl rfl ⟨rfl, rfl⟩
  case bringupSeq =>
    obtain ⟨-, h⟩ := requirePins_next he
    cases h
    exact plain_of_wire (wire_linkStep2 s) (linkStep2_selcache s) (fun _ => linkStep2_clkLevel s) rfl rfl ⟨rfl, rfl⟩
  case setVerbosity l =>
    simp only [exec, execSetVerbosity] at he
    split at he
    · cases he
      exact ⟨⟨rfl, rfl⟩, rfl, rfl, rfl, rfl, rfl, rfl, rfl, fun h => absurd rfl (h l), rfl, fun h => h,
        List.prefix_refl _, List.prefix_refl _, ⟨0, rfl⟩, fun _ => ⟨rfl, rfl, rfl, rfl, rfl, rfl⟩⟩
    · cases he
  case evenParity w =>
    cases he
    exact ⟨⟨rfl, rfl⟩, rfl, rfl, rfl, rfl, rfl, rfl, rfl, fun _ => rfl, rfl, fun h => h, List.prefix_refl _,
      List.prefix_refl _, ⟨0, rfl⟩, fun _ => ⟨rfl, rfl, rfl, rfl, rfl, rfl⟩⟩
  case packHeader a p r =>
    cases he
    exact ⟨⟨rfl, rfl⟩, rfl, rfl, rfl, rfl, rfl, rfl, rfl, fun _ => rfl, rfl, fun h => h, List.prefix_refl _,
      List.prefix_refl _, ⟨0, rfl⟩, fun _ => ⟨rfl, rfl, rfl, rfl, rfl, rfl⟩⟩
  case apSelect port addr => exact absurd rfl (hi port addr)
  all_goals simp [makesTransaction] at hm

/-- After INITIALIZE the cache holds the sentinel, or a selection of port 0 (R221, R226, R227). -/
theorem exec_linkInit_selection (clk dio : PinId) (v : BitVec 2) (s t : State)
    (he : exec (.linkInit clk dio v) s = .next t) : LegalSelection t.selcache := by
  simp only [exec, execLinkInit] at he
  cases hl : levelOf Config.params v with
  | none => rw [hl] at he; cases he
  | some l =>
    rw [hl] at he
    simp only [linkInitialize] at he
    have h := bringUp_selection (linkStep2 Config.params (linkStep1 Config.params clk dio l s))
    have ht : t.selcache = (bringUp Config.params (linkStep2 Config.params (linkStep1 Config.params clk dio l s))).2.selcache := by
      rcases hb : bringUp Config.params (linkStep2 Config.params (linkStep1 Config.params clk dio l s)) with ⟨_ | _, u⟩ <;>
        rw [hb] at he <;> cases he <;> rfl
    rw [ht]
    rcases h with h | h | h
    · exact .inl (h.trans (linkStep2_selcache _))
    · exact .inr ⟨0, 0xF0, by decide, by rw [h]; decide⟩
    · exact .inr ⟨0, 0, by decide, by rw [h]; decide⟩

end Sys2Proof.Machine
end

