-- ==== Sys2Proof/Laws/PerInstr.lean ====
section
/-! SUPPORT. Statements made once per constructor of Instr. The family EncodesRow: the encoder gives every operation the
fixed bits of its own row of opcode_table.json (30_encoding.md R92, R98, R105). -/

namespace Sys2Proof.Laws.EncodesRow

/-- Match and mask of a row: the command code (R92), the fixed and direction bits of a header (R98); the row of R105 has
neither. -/
def row : Instr → Option (BitVec 8 × BitVec 8)
  | .writeBits _ _ => some (0x01, 0x1F)
  | .readBits _ => some (0x02, 0x1F)
  | .writeTurnaround => some (0x03, 0x1F)
  | .readTurnaround => some (0x04, 0x1F)
  | .dpWrite _ _ _ => some (0x05, 0x1F)
  | .dpRead _ _ => some (0x06, 0x1F)
  | .apSelect _ _ => some (0x07, 0x1F)
  | .apWrite _ _ _ => some (0x08, 0x1F)
  | .apRead _ _ => some (0x09, 0x1F)
  | .linkInit _ _ _ => some (0x0A, 0x1F)
  | .memStore _ _ => some (0x0B, 0x1F)
  | .memLoad _ => some (0x0C, 0x1F)
  | .memStoreN _ _ _ => some (0x0D, 0x1F)
  | .memLoadN _ _ => some (0x0E, 0x1F)
  | .setVerbosity _ => some (0x0F, 0x1F)
  | .evenParity _ => some (0x10, 0x1F)
  | .packHeader _ _ _ => some (0x11, 0x1F)
  | .reqDpWrite _ _ _ => some (0x81, 0xC7)
  | .reqDpRead _ _ => some (0x85, 0xC7)
  | .reqApWrite _ _ _ => some (0x83, 0xC7)
  | .reqApRead _ _ => some (0x87, 0xC7)
  | .bringupSeq => none

/-- The byte of a presentation that carries the row's fixed bits. -/
def fixedByte : Presented → Option (BitVec 8)
  | .cmd r => some (r.op.setWidth 8)
  | .request h _ => some h
  | .sequence _ => none

/-- The encoding of `i` has the fixed bits of its row, or is the sequence of R105. -/
def Statement (i : Instr) : Prop :=
  match row i with
  | some (m, k) => (fixedByte (encode i)).map (· &&& k) = some m
  | none => encode i = .sequence (bringupBits Config.params)

theorem writeBits (value : Word) (n : BitVec 6) : Statement (.writeBits value n) := by
  simp [Statement, row, fixedByte, encode]
theorem readBits (n : BitVec 6) : Statement (.readBits n) := by
  simp [Statement, row, fixedByte, encode]
theorem writeTurnaround : Statement .writeTurnaround := by
  simp [Statement, row, fixedByte, encode]
theorem readTurnaround : Statement .readTurnaround := by
  simp [Statement, row, fixedByte, encode]
theorem dpWrite (addr : Word) (apndp : Bool) (data : Word) : Statement (.dpWrite addr apndp data) := by
  simp [Statement, row, fixedByte, encode]
theorem dpRead (addr : Word) (apndp : Bool) : Statement (.dpRead addr apndp) := by
  simp [Statement, row, fixedByte, encode]
theorem apSelect (port : BitVec 8) (addr : Word) : Statement (.apSelect port addr) := by
  simp [Statement, row, fixedByte, encode]
theorem apWrite (port : BitVec 8) (addr data : Word) : Statement (.apWrite port addr data) := by
  simp [Statement, row, fixedByte, encode]
theorem apRead (port : BitVec 8) (addr : Word) : Statement (.apRead port addr) := by
  simp [Statement, row, fixedByte, encode]
theorem linkInit (clk dio : PinId) (verbosity : BitVec 2) : Statement (.linkInit clk dio verbosity) := by
  simp [Statement, row, fixedByte, encode]
theorem memStore (address word : Word) : Statement (.memStore address word) := by
  simp [Statement, row, fixedByte, encode]
theorem memLoad (address : Word) : Statement (.memLoad address) := by
  simp [Statement, row, fixedByte, encode]
theorem memStoreN (address count : Word) (buffer : List Word) : Statement (.memStoreN address count buffer) := by
  simp [Statement, row, fixedByte, encode]
theorem memLoadN (address count : Word) : Statement (.memLoadN address count) := by
  simp [Statement, row, fixedByte, encode]
theorem setVerbosity (level : BitVec 2) : Statement (.setVerbosity level) := by
  simp [Statement, row, fixedByte, encode]
theorem evenParity (w : Word) : Statement (.evenParity w) := by
  simp [Statement, row, fixedByte, encode]
theorem packHeader (addr : Word) (apndp rnw : Bool) : Statement (.packHeader addr apndp rnw) := by
  simp [Statement, row, fixedByte, encode]
theorem reqDpWrite (a3 a2 : Bool) (data : Word) : Statement (.reqDpWrite a3 a2 data) := by
  cases a3 <;> cases a2 <;> (simp [Statement, row, fixedByte, encode]; decide)
theorem reqDpRead (a3 a2 : Bool) : Statement (.reqDpRead a3 a2) := by cases a3 <;> cases a2 <;> (simp [Statement, row, fixedByte, encode]; decide)
theorem reqApWrite (a3 a2 : Bool) (data : Word) : Statement (.reqApWrite a3 a2 data) := by
  cases a3 <;> cases a2 <;> (simp [Statement, row, fixedByte, encode]; decide)
theorem reqApRead (a3 a2 : Bool) : Statement (.reqApRead a3 a2) := by cases a3 <;> cases a2 <;> (simp [Statement, row, fixedByte, encode]; decide)
theorem bringupSeq : Statement .bringupSeq := by
  simp [Statement, row, encode]

end Sys2Proof.Laws.EncodesRow
end

