-- ==== Sys2Proof/Laws/Sink.lean ====
section
/-! SUPPORT. The diagnostic threshold and the sink are only ever written to by the rest (10_state.md R27, R46): every
shared operation, run in two states alike but for those two fields, ends alike. -/

namespace Sys2Proof.Machine

/-- The two states are equal but for the threshold and the diagnostics so far. -/
def Alike (s u : State) : Prop :=
  ∃ v d, u = { s with verbosity := v, diag := d }

/-- The two runs ended alike. -/
def AlikeRun {α : Type} (r q : Run α) : Prop :=
  r.1 = q.1 ∧ Alike r.2 q.2

theorem Alike.refl (s : State) : Alike s s := ⟨s.verbosity, s.diag, rfl⟩

theorem alike_log {s u : State} (h : Alike s u) (l : Level) (e : DiagEvent) : Alike (log l e s) (log l e u) := by
  obtain ⟨v, d, rfl⟩ := h; exact ⟨_, _, rfl⟩

theorem alike_log_same {s u : State} (h : Alike s u) (l l' : Level) (e e' : DiagEvent) :
    Alike (log l e s) (log l' e' u) := by
  obtain ⟨v, d, rfl⟩ := h; exact ⟨_, _, rfl⟩

theorem alike_writeBits {s u : State} (h : Alike s u) (w : Word) (n : Nat) : Alike (writeBits w n s) (writeBits w n u) := by
  obtain ⟨v, d, rfl⟩ := h; exact ⟨_, _, rfl⟩

theorem alike_readBits {s u : State} (h : Alike s u) (n : Nat) : Alike (readBits n s) (readBits n u) := by
  obtain ⟨v, d, rfl⟩ := h; exact ⟨_, _, rfl⟩

theorem alike_readValue {s u : State} (h : Alike s u) (n : Nat) : readValue n u = readValue n s := by
  obtain ⟨v, d, rfl⟩ := h; rfl

theorem alike_readTurnaround {s u : State} (h : Alike s u) : Alike (readTurnaround s) (readTurnaround u) := by
  obtain ⟨v, d, rfl⟩ := h; exact ⟨_, _, rfl⟩

theorem alike_writeTurnaround {s u : State} (h : Alike s u) : Alike (writeTurnaround s) (writeTurnaround u) := by
  obtain ⟨v, d, rfl⟩ := h; exact ⟨_, _, rfl⟩

theorem alike_setSelcache {s u : State} (h : Alike s u) (w : Word) : Alike (setSelcache w s) (setSelcache w u) := by
  obtain ⟨v, d, rfl⟩ := h; exact ⟨_, _, rfl⟩

theorem alike_putVerbosity {s u : State} (h : Alike s u) (l : Level) : Alike (putVerbosity l s) (putVerbosity l u) := by
  obtain ⟨v, d, rfl⟩ := h; exact ⟨_, _, rfl⟩

theorem alike_markReady {s u : State} (h : Alike s u) : Alike (markReady s) (markReady u) := by
  obtain ⟨v, d, rfl⟩ := h; exact ⟨_, _, rfl⟩

theorem alike_presentWord {s u : State} (h : Alike s u) (w : Word) : Alike (presentWord w s) (presentWord w u) := by
  obtain ⟨v, d, rfl⟩ := h; exact ⟨_, _, rfl⟩

theorem alike_presentDone {s u : State} (h : Alike s u) : Alike (presentDone s) (presentDone u) := by
  obtain ⟨v, d, rfl⟩ := h; exact ⟨_, _, rfl⟩

theorem alike_presentFail {s u : State} (h : Alike s u) (e : ErrorKind) : Alike (presentFail e s) (presentFail e u) := by
  obtain ⟨v, d, rfl⟩ := h; exact ⟨_, _, rfl⟩

theorem alike_fillBuffer {s u : State} (h : Alike s u) (ws : List Word) : Alike (fillBuffer ws s) (fillBuffer ws u) := by
  obtain ⟨v, d, rfl⟩ := h; exact ⟨_, _, rfl⟩

theorem alike_spoilBuffer {s u : State} (h : Alike s u) (n : Nat) : Alike (spoilBuffer n s) (spoilBuffer n u) := by
  obtain ⟨v, d, rfl⟩ := h; exact ⟨_, _, rfl⟩

theorem alike_linkStep1 {s u : State} (h : Alike s u) (c : Params) (clk dio : PinId) (l : Level) :
    Alike (linkStep1 c clk dio l s) (linkStep1 c clk dio l u) := by
  obtain ⟨v, d, rfl⟩ := h; exact ⟨_, _, rfl⟩

theorem alike_sendRun {s u : State} (h : Alike s u) (b : Bool) (k : Nat) : Alike (sendRun b k s) (sendRun b k u) := by
  obtain ⟨v, d, rfl⟩ := h; exact ⟨_, _, rfl⟩

theorem alike_linkStep2 {s u : State} (h : Alike s u) (c : Params) : Alike (linkStep2 c s) (linkStep2 c u) :=
  alike_sendRun (alike_sendRun (alike_writeBits (alike_sendRun h _ _) _ _) _ _) _ _

theorem alike_drain {s u : State} (h : Alike s u) (c : Params) : Alike (drain c s) (drain c u) :=
  alike_writeBits h _ _

theorem alike_sendHeader {s u : State} (h : Alike s u) (c : Params) (a : Word) (p r : Bool) :
    Alike (sendHeader c a p r s) (sendHeader c a p r u) :=
  alike_readTurnaround (alike_writeBits h _ _)

theorem alike_sendData {s u : State} (h : Alike s u) (c : Params) (w : Word) :
    Alike (sendData c w s) (sendData c w u) :=
  alike_drain (alike_writeBits (alike_writeBits h _ _) _ _) c

theorem alike_raise {α : Type} {s u : State} (h : Alike s u) (f : Failure) :
    AlikeRun (raise f s : Run α) (raise f u) :=
  ⟨rfl, alike_log h _ _⟩

theorem AlikeRun.andThen {α β : Type} {r q : Run α} {f : α → State → Run β} (h : AlikeRun r q)
    (hf : ∀ a s u, Alike s u → AlikeRun (f a s) (f a u)) : AlikeRun (Machine.andThen r f) (Machine.andThen q f) := by
  obtain ⟨x, s⟩ := r
  obtain ⟨y, u⟩ := q
  obtain ⟨he, hs⟩ := h
  cases he
  cases x with
  | error e => exact ⟨rfl, hs⟩
  | ok a => exact hf a s u hs

theorem alike_dpWriteLoop (c : Params) (a : Word) (p : Bool) (w : Word) (b : Nat) {s u : State} (h : Alike s u) :
    AlikeRun (dpWriteLoop c a p w b s) (dpWriteLoop c a p w b u) := by
  induction b generalizing s u with
  | zero => exact alike_raise h _
  | succ b ih =>
    have h1 := alike_sendHeader h c a p false
    have h2 := alike_writeTurnaround (alike_readBits h1 c.ackBits)
    simp only [dpWriteLoop, ackValue, alike_readValue h1]
    split
    · exact ⟨rfl, alike_sendData h2 c w⟩
    · exact ih (alike_drain h2 c)
    · exact alike_raise (alike_drain h2 c) _
    · exact alike_raise (alike_drain h2 c) _

theorem alike_dpWrite (c : Params) (a : Word) (p : Bool) (w : Word) {s u : State} (h : Alike s u) :
    AlikeRun (dpWrite c a p w s) (dpWrite c a p w u) :=
  alike_dpWriteLoop c a p w _ (alike_log h _ _)

theorem alike_dpReadLoop (c : Params) (a : Word) (p : Bool) (b : Nat) {s u : State} (h : Alike s u) :
    AlikeRun (dpReadLoop c a p b s) (dpReadLoop c a p b u) := by
  induction b generalizing s u with
  | zero => exact alike_raise h _
  | succ b ih =>
    have h1 := alike_sendHeader h c a p true
    have h2 := alike_readBits h1 c.ackBits
    have h3 := alike_readBits h2 c.dataBits
    have h4 := alike_drain (alike_writeTurnaround (alike_readBits h3 1)) c
    have h5 := alike_drain (alike_writeTurnaround h2) c
    simp only [dpReadLoop, ackValue, alike_readValue h1, alike_readValue h2, alike_readValue h3]
    split
    · split
      · exact ⟨rfl, h4⟩
      · exact alike_raise h4 _
    · exact ih h5
    · exact alike_raise h5 _
    · exact alike_raise h5 _

theorem alike_dpRead (c : Params) (a : Word) (p : Bool) {s u : State} (h : Alike s u) :
    AlikeRun (dpRead c a p s) (dpRead c a p u) :=
  alike_dpReadLoop c a p _ (alike_log h _ _)

theorem alike_select (c : Params) (port : BitVec 8) (a : Word) {s u : State} (h : Alike s u) :
    AlikeRun (selectAccessPort c port a s) (selectAccessPort c port a u) := by
  have hc : u.selcache = s.selcache := by obtain ⟨v, d, rfl⟩ := h; rfl
  simp only [selectAccessPort, hc]
  split
  · exact ⟨rfl, h⟩
  · exact (alike_dpWrite c _ _ _ h).andThen fun _ _ _ h => ⟨rfl, alike_setSelcache h _⟩

theorem alike_apWrite (c : Params) (port : BitVec 8) (a w : Word) {s u : State} (h : Alike s u) :
    AlikeRun (apWrite c port a w s) (apWrite c port a w u) :=
  (alike_select c port a h).andThen fun _ _ _ h => alike_dpWrite c _ _ _ h

theorem alike_apRead (c : Params) (port : BitVec 8) (a : Word) {s u : State} (h : Alike s u) :
    AlikeRun (apRead c port a s) (apRead c port a u) :=
  (alike_select c port a h).andThen fun _ _ _ h => alike_dpRead c _ _ h

theorem alike_storeWords (c : Params) (ws : List Word) (a : Word) {s u : State} (h : Alike s u) :
    AlikeRun (storeWords c ws a s) (storeWords c ws a u) := by
  induction ws generalizing a s u with
  | nil => exact ⟨rfl, h⟩
  | cons w ws ih => exact (alike_apWrite c _ _ _ (alike_log h _ _)).andThen fun _ _ _ h => ih _ h

theorem alike_loadWords (c : Params) (n : Nat) (a : Word) {s u : State} (h : Alike s u) :
    AlikeRun (loadWords c n a s) (loadWords c n a u) := by
  induction n generalizing a s u with
  | zero => exact ⟨rfl, h⟩
  | succ n ih =>
    exact (alike_apRead c _ _ h).andThen fun _ _ _ h => (ih _ (alike_log h _ _)).andThen fun _ _ _ h => ⟨rfl, h⟩

theorem alike_memoryStore (c : Params) (a : Word) (ws : List Word) {s u : State} (h : Alike s u) :
    AlikeRun (memoryStore c a ws s) (memoryStore c a ws u) :=
  (alike_apWrite c _ _ _ h).andThen fun _ _ _ h => alike_storeWords c ws a h

theorem alike_memoryLoad (c : Params) (a : Word) (n : Nat) {s u : State} (h : Alike s u) :
    AlikeRun (memoryLoad c a n s) (memoryLoad c a n u) :=
  (alike_apWrite c _ _ _ h).andThen fun _ _ _ h => alike_loadWords c n a h

theorem alike_pollLoop (c : Params) (n : Nat) (last : Word) {s u : State} (h : Alike s u) :
    AlikeRun (pollLoop c n last s) (pollLoop c n last u) := by
  induction n generalizing last s u with
  | zero => exact alike_raise h _
  | succ n ih =>
    refine (alike_dpRead c _ _ h).andThen fun v s u h => ?_
    split
    · exact ⟨rfl, h⟩
    · exact ih v h

theorem alike_linkStep3 (c : Params) {s u : State} (h : Alike s u) : AlikeRun (linkStep3 c s) (linkStep3 c u) := by
  have hd := alike_dpRead c c.dpIdcode false h
  simp only [linkStep3]
  rcases hr : dpRead c c.dpIdcode false s with ⟨x, s'⟩
  rcases hq : dpRead c c.dpIdcode false u with ⟨y, u'⟩
  rw [hr, hq] at hd
  obtain ⟨he, hs⟩ := hd
  cases he
  cases x with
  | ok w => exact ⟨rfl, hs⟩
  | error e => exact alike_raise hs _

theorem alike_bringUp (c : Params) {s u : State} (h : Alike s u) : AlikeRun (bringUp c s) (bringUp c u) := by
  refine (alike_linkStep3 c h).andThen fun idcode s u h => ?_
  refine AlikeRun.andThen ?_ fun _ s u h => ?_
  · simp only [linkStep4]
    split
    · exact ⟨rfl, alike_log h _ _⟩
    · exact alike_raise h _
  refine AlikeRun.andThen ?_ fun _ s u h => ?_
  · exact (alike_dpWrite c _ _ _ h).andThen fun _ _ _ h => alike_pollLoop c _ _ h
  refine AlikeRun.andThen ?_ fun _ s u h => ?_
  · refine (alike_apRead c _ _ h).andThen fun idr s u h => ?_
    split
    · exact ⟨rfl, h⟩
    · exact alike_raise h _
  exact (alike_apWrite c _ _ _ h).andThen fun _ _ _ h => ⟨rfl, alike_markReady h⟩

end Sys2Proof.Machine
end

