-- ==== Sys2Proof/Tests/Slice0.lean ====
section
/-! SUPPORT. The model's own tests. Expected results come from 95_test_vectors.md (V and P numbers) and from the
encodings of 30_encoding.md written out by hand. Traces are run with the parameters of 95_test_vectors.md section 1
(Config.vectors) where they touch an OPEN parameter. -/

namespace Sys2Proof.Tests

open Sys2Proof.Machine

/-! ### States and scripts -/

/-- A link whose pins step 1 has configured, line driven and idle. -/
def linkUp : State :=
  { State.reset with pinsReady := true, clkLevel := true, dioMode := .outPP, clkPin := 0, dioPin := 1, selcache := 0 }

/-- `linkUp` with the target's levels to come. -/
def answering (ls : List Bool) : State :=
  { linkUp with targetScript := ls.map some }

/-- `OK`, `WAIT`, `FAULT` and a number, as levels (95_test_vectors.md section 1). -/
def ack (n : Nat) : List Bool := ackLevels (BitVec.ofNat 3 n)

/-- `OK d p`. -/
def okData (d : Word) (p : Bool) : List Bool := ack 1 ++ lsbBits d 32 ++ [p]

/-- `k` times `WAIT`. -/
def waits (k : Nat) : List Bool := (List.replicate k (ack 2)).flatten

/-- What a test looks at after a command: ok, err, rdata, SELCACHE, pulses. -/
def summary (s : State) (o : Host.Outcome State Fault Refusal) : Option (Bool × Nat × Nat × Nat × Nat) :=
  match o with
  | .next t => some (t.result.ok, t.result.err.toNat, t.result.rdata.toNat, t.selcache.toNat, pulsesSince s t)
  | _ => none

/-- The same without rdata, which a failed command and a command without a word leave free. -/
def status (s : State) (o : Host.Outcome State Fault Refusal) : Option (Bool × Nat × Nat × Nat) :=
  match o with
  | .next t => some (t.result.ok, t.result.err.toNat, t.selcache.toNat, pulsesSince s t)
  | _ => none

/-- The refusal of an outcome. -/
def refusal (o : Host.Outcome State Fault Refusal) : Option Refusal :=
  match o with
  | .refused r => some r
  | _ => none

/-! ### WellFormed: an ill-formed term for each check -/

theorem test_wf_write_bits : (Instr.writeBits 0 33).wellFormed = false := by decide
theorem test_wf_read_bits : (Instr.readBits 63).wellFormed = false := by decide
theorem test_wf_ap_select : (Instr.apSelect 255 0).wellFormed = false := by decide
theorem test_wf_ap_write : (Instr.apWrite 4 0 0).wellFormed = false := by decide
theorem test_wf_ap_read : (Instr.apRead 4 0).wellFormed = false := by decide
theorem test_wf_link_init : (Instr.linkInit 0 1 3).wellFormed = false := by decide
theorem test_wf_mem_store_n : (Instr.memStoreN 0 2 [1]).wellFormed = false := by decide
theorem test_wf_set_verbosity : (Instr.setVerbosity 3).wellFormed = false := by decide
theorem test_wf_accepts_32_bits : (Instr.writeBits 0 32).wellFormed = true := by decide

/-! ### Decoding: codes and headers written out from R92 and R97 -/

theorem test_decode_write_bits : decode (.cmd { op := 0b00001, value := 0xA5, n := 8 }) = .ok (.writeBits 0xA5 8) := rfl
theorem test_decode_read_bits : decode (.cmd { op := 0b00010, n := 3 }) = .ok (.readBits 3) := rfl
theorem test_decode_write_turnaround : decode (.cmd { op := 0b00011 }) = .ok .writeTurnaround := rfl
theorem test_decode_read_turnaround : decode (.cmd { op := 0b00100 }) = .ok .readTurnaround := rfl
theorem test_decode_dp_write :
    decode (.cmd { op := 0b00101, addr := 4, apndp := false, value := 0x50000000 })
      = .ok (.dpWrite 4 false 0x50000000) := rfl
theorem test_decode_dp_read : decode (.cmd { op := 0b00110, addr := 0xC, apndp := true }) = .ok (.dpRead 0xC true) := rfl
theorem test_decode_ap_select : decode (.cmd { op := 0b00111, port := 2, addr := 0xAB }) = .ok (.apSelect 2 0xAB) := rfl
theorem test_decode_ap_write :
    decode (.cmd { op := 0b01000, port := 3, addr := 0x14, value := 1 }) = .ok (.apWrite 3 0x14 1) := rfl
theorem test_decode_ap_read : decode (.cmd { op := 0b01001, port := 0, addr := 0xFC }) = .ok (.apRead 0 0xFC) := rfl
theorem test_decode_initialize :
    decode (.cmd { op := 0b01010, clk := 7, dio := 8, verbosity := 1 }) = .ok (.linkInit 7 8 1) := rfl
theorem test_decode_mem_store :
    decode (.cmd { op := 0b01011, address := 0x20000000, value := 0x11 }) = .ok (.memStore 0x20000000 0x11) := rfl
theorem test_decode_mem_load :
    decode (.cmd { op := 0b01100, address := 0x20000000 }) = .ok (.memLoad 0x20000000) := rfl
theorem test_decode_mem_store_n :
    decode (.cmd { op := 0b01101, address := 0x20000000, count := 3, buffer := [0x11, 0x22, 0x33] })
      = .ok (.memStoreN 0x20000000 3 [0x11, 0x22, 0x33]) := rfl
theorem test_decode_mem_load_n :
    decode (.cmd { op := 0b01110, address := 0x20000000, count := 2 }) = .ok (.memLoadN 0x20000000 2) := rfl
theorem test_decode_set_verbosity : decode (.cmd { op := 0b01111, level := 2 }) = .ok (.setVerbosity 2) := rfl
theorem test_decode_even_parity : decode (.cmd { op := 0b10000, value := 3 }) = .ok (.evenParity 3) := rfl
theorem test_decode_pack_header :
    decode (.cmd { op := 0b10001, addr := 4, apndp := true, rnw := true }) = .ok (.packHeader 4 true true) := rfl
theorem test_decode_req_dp_write : decode (.request 0b10110001 7) = .ok (.reqDpWrite true false 7) := rfl
theorem test_decode_req_dp_read : decode (.request 0b10001101 0) = .ok (.reqDpRead false true) := rfl
theorem test_decode_req_ap_write : decode (.request 0b10111011 7) = .ok (.reqApWrite true true 7) := rfl
theorem test_decode_req_ap_read : decode (.request 0b10000111 0) = .ok (.reqApRead false false) := rfl
/-- The sequence of R105, its switch code in wire order `0111 1001 1110 0111`. -/
theorem test_decode_bringup :
    decode (.sequence (List.replicate Config.params.lineResetOnes true
      ++ [false, true, true, true, true, false, false, true, true, true, true, false, false, true, true, true]
      ++ List.replicate Config.params.lineResetOnes true ++ List.replicate Config.params.trailingZeroBits false))
      = .ok .bringupSeq := by
  have h : lsbBits Config.params.switchCode Config.params.switchBits
      = [false, true, true, true, true, false, false, true, true, true, true, false, false, true, true, true] := by decide
  simp only [decode, bringupBits, h, if_true]
theorem test_decode_reserved_zero : decode (.cmd { op := 0 }) = .error (.reservedCommand 0) := rfl
theorem test_decode_reserved_12 : decode (.cmd { op := 0x12 }) = .error (.reservedCommand 0x12) := rfl
theorem test_decode_park_low : decode (.request 0x01 0) = .error (.notARequestHeader 0x01) := rfl
theorem test_table_word_mem_load : decodeTableWord 8 0x0C = some (.memLoad 0) := rfl
theorem test_table_word_req_dp_read : decodeTableWord 8 0x85 = some (.reqDpRead false false) := rfl

/-! ### Pure functions: 95_test_vectors.md 3.1 and 3.2 -/

theorem test_even_parity_odd : summary linkUp (exec (.evenParity 0x12345678) linkUp) = some (true, 0, 1, 0, 0) := by decide
theorem test_even_parity_even : summary linkUp (exec (.evenParity 0xFFFFFFFF) linkUp) = some (true, 0, 0, 0, 0) := by decide
theorem test_pack_header : summary linkUp (exec (.packHeader 0x0 false true) linkUp) = some (true, 0, 0xA5, 0, 0) := by decide
theorem test_pack_header_dont_care :
    summary linkUp (exec (.packHeader 0xFFFFFFF3 false false) linkUp) = some (true, 0, 0x81, 0, 0) := by decide

/-! ### Wire primitives: V01, V02, V04, V05, V06, V07 (R141), V08 -/

theorem test_write_bits_low_bits :
    (writeBits 0xFFFFFF02 2 linkUp).gpio
      = [.setLevel .dio 1 false, .setLevel .clk 0 false, .setLevel .clk 0 true,
         .setLevel .dio 1 true, .setLevel .clk 0 false, .setLevel .clk 0 true] := by decide
theorem test_write_bits_refused : refusal (exec (.writeBits 0 33) linkUp) = some (.bitCountAbove32 33) := by decide
theorem test_read_bits_no_target :
    summary linkUp (exec (.readBits 3) { linkUp with dioMode := .inPU }) = some (true, 0, 7, 0, 3) := by decide
theorem test_read_bits_word :
    summary linkUp (exec (.readBits 32) { answering (lsbBits (0x2BA01477 : Word) 32) with dioMode := .inPU })
      = some (true, 0, 0x2BA01477, 0, 32) := by decide
theorem test_turnarounds :
    (writeTurnaround (readTurnaround linkUp)).gpio
      = [.setMode .dio 1 .inPU, .setLevel .clk 0 false, .setLevel .clk 0 true,
         .setLevel .clk 0 false, .setLevel .clk 0 true, .setMode .dio 1 .outPP] := by decide
theorem test_wire_example :
    (readBits 2 (readTurnaround (writeBits 5 3 (answering [true, false])))).gpio
      = [.setLevel .dio 1 true, .setLevel .clk 0 false, .setLevel .clk 0 true,
         .setLevel .dio 1 false, .setLevel .clk 0 false, .setLevel .clk 0 true,
         .setLevel .dio 1 true, .setLevel .clk 0 false, .setLevel .clk 0 true,
         .setMode .dio 1 .inPU, .setLevel .clk 0 false, .setLevel .clk 0 true,
         .readLevel .dio 1 true, .setLevel .clk 0 false, .setLevel .clk 0 true,
         .readLevel .dio 1 false, .setLevel .clk 0 false, .setLevel .clk 0 true] := by decide
theorem test_write_turnaround_runs : status linkUp (exec .writeTurnaround linkUp) = some (true, 0, 0, 1) := by decide
theorem test_read_turnaround_runs : status linkUp (exec .readTurnaround linkUp) = some (true, 0, 0, 1) := by decide

/-! ### DP transactions: V10, V12, V15, V17, V19, V20, V21 -/

theorem test_dp_read :
    summary linkUp (exec (.dpRead 0 false) (answering (okData 0x12345678 true)))
      = some (true, 0, 0x12345678, 0, 54) := by decide +kernel
theorem test_dp_read_parity_error :
    status linkUp (exec (.dpRead 0 false) (answering (okData 0x12345678 false))) = some (false, 8, 0, 54) := by
  decide +kernel
theorem test_dp_read_no_target : status linkUp (exec (.reqDpRead false false) linkUp) = some (false, 6, 0, 21) := by
  decide +kernel
theorem test_req_ap_write :
    status linkUp (exec (.reqApWrite false false 0xCAFEF00D) (answering (ack 1))) = some (true, 0, 0, 54) := by
  decide +kernel
theorem test_req_dp_write_fault :
    status linkUp (exec (.reqDpWrite true true 1) (answering (ack 4))) = some (false, 5, 0, 21) := by decide +kernel
theorem test_req_ap_read :
    summary linkUp (exec (.reqApRead true true) (answering (waits 9 ++ okData 0xDEADBEEF false)))
      = some (true, 0, 0xDEADBEEF, 0, 243) := by decide +kernel
theorem test_dp_write_tenth_attempt :
    status linkUp (exec (.dpWrite 4 false 0x50000000) (answering (waits 9 ++ ack 1))) = some (true, 0, 0, 243) := by
  decide +kernel
/-- V26: what an observer sees on the line, header 0xB1, data 0x80000012, parity 1, idle. -/
theorem test_dp_write_on_the_line :
    bitsSince linkUp (dpWrite Config.vectors 8 false 0x80000012 (answering (ack 1))).2
      = writeAttempt 0xB1 0x80000012 := by decide +kernel

/-! ### Access ports: V32, V35, V36, V38, V39 -/

theorem test_ap_read_select_fault :
    status linkUp (exec (.apRead 0 0xFC) { answering (ack 4) with selcache := 0xFFFFFFFF })
      = some (false, 5, 0xFFFFFFFF, 21) := by decide +kernel
theorem test_ap_read_miss :
    summary linkUp (exec (.apRead 0 0xFC) { answering (ack 1 ++ okData 0x24770011 false) with selcache := 0xFFFFFFFF })
      = some (true, 0, 0x24770011, 0xF0, 108) := by decide +kernel
theorem test_ap_write_other_port :
    status linkUp (exec (.apWrite 3 0x14 1) (answering (ack 1 ++ ack 1))) = some (true, 0, 0x03000010, 108) := by
  decide +kernel
theorem test_ap_write_access_fails :
    status linkUp (exec (.apWrite 0 0xFC 5) (answering (ack 1 ++ ack 4))) = some (false, 5, 0xF0, 75) := by
  decide +kernel
theorem test_ap_select_hit : status linkUp (exec (.apSelect 0 0x0C) linkUp) = some (true, 0, 0, 0) := by decide +kernel
theorem test_ap_select_no_such_port : refusal (exec (.apSelect 255 0) linkUp) = some (.noSuchPort 255) := by decide

/-! ### When a failure is reported: "exactly one error-level diagnostic is emitted, after the last `W(0,8)`"
(95_test_vectors.md section 3.4). Every pulse of an attempt goes with three GPIO actions (R134 to R137), so the place is three
times the row's pulses. -/

/-- How many GPIO actions had been made before each error-level event since power-on. -/
def reportedAt (o : Host.Outcome State Fault Refusal) : List Nat :=
  match o with
  | .next t => (t.diag.filter fun e => e.diag.isError).map Emitted.actions
  | _ => []

/-- V15 and V19: 21 pulses. -/
theorem test_report_after_drain :
    reportedAt (exec (.dpRead 0 false) (answering (ack 7))) = [63] ∧
    reportedAt (exec (.dpWrite 0xC false 1) (answering (ack 4))) = [63] := by decide +kernel
/-- V23: 210 pulses; and a wrong parity bit (R174): 54. -/
theorem test_report_after_last_drain :
    reportedAt (exec (.dpRead 0xC true) (answering (waits 10))) = [630] ∧
    reportedAt (exec (.dpRead 0 false) (answering (okData 0x12345678 false))) = [162] := by decide +kernel

/-! ### Initialization: P1, V40, V41, V45, V49 and their diagnostics -/

/-- Run `initialize` with the test vectors' parameters from power-on. -/
def initVectors (ls : List Bool) : Run Unit :=
  linkInitialize Config.vectors 0 1 .normal { State.reset with targetScript := ls.map some }

/-- ok or code, SELCACHE, LINK_READY, pulses, error-level events, milestones. -/
def initSummary (r : Run Unit) : Nat × Nat × Bool × Nat × Nat × Nat :=
  ((match r.1 with
    | .ok _ => 0
    | .error e => e.code.toNat),
    r.2.selcache.toNat, r.2.linkReady, pulsesSince State.reset r.2, r.2.errorEvents.length, r.2.milestones.length)

theorem test_init_p1 :
    initSummary (initVectors (okData 0x2BA01477 false ++ ack 1 ++ okData 0xF0000000 false ++ ack 1
      ++ okData 0x24770011 false ++ ack 1 ++ ack 1)) = (0, 0, true, 586, 0, 1) := by decide +kernel
/-- P5 (a), through the command: err 1. -/
theorem test_initialize_runs :
    (match exec (.linkInit 0 1 1) State.reset with
      | .next t => some (t.result.ok, t.result.err.toNat, t.linkReady, t.pinsReady)
      | _ => none) = some (false, 1, false, true) := by decide +kernel
theorem test_bringup_bits :
    bitsSince linkUp (linkStep2 Config.vectors linkUp) = (bringupBits Config.vectors).map some := by decide +kernel
theorem test_bringup_runs :
    (match exec .bringupSeq linkUp with
      | .next t => some (t.result.ok, t.dioMode)
      | _ => none) = some (true, .outPP) := by decide +kernel
theorem test_set_verbosity :
    (match exec (.setVerbosity 2) State.reset with
      | .next t => some (t.result.ok, t.verbosity)
      | _ => none) = some (true, .trace) := by decide

/-! ### Memory operations: V50, V51, V52, V53, V56, V57, P2 (b) -/

theorem test_mem_store :
    status linkUp (exec (.memStore 0x20000000 0x11) { answering (ack 1 ++ ack 1 ++ ack 1) with selcache := 0xFFFFFFFF })
      = some (true, 0, 0, 162) := by decide +kernel
theorem test_mem_store_n_abort :
    status linkUp (exec (.memStoreN 0x20000000 3 [0x11, 0x22, 0x33]) (answering (ack 1 ++ ack 1 ++ ack 4)))
      = some (false, 5, 0, 129) := by decide +kernel
theorem test_mem_load :
    summary linkUp (exec (.memLoad 0x20000000) (answering (ack 1 ++ okData 0xAAAA5555 false)))
      = some (true, 0, 0xAAAA5555, 0, 108) := by decide +kernel
theorem test_mem_load_n_parity :
    status linkUp (exec (.memLoadN 0x20000000 3) (answering (ack 1 ++ okData 0x1234 true ++ okData 0xAAAA5555 true)))
      = some (false, 8, 0, 162) := by decide +kernel
theorem test_mem_load_n_buffer :
    (match exec (.memLoadN 0x20000000 2) (answering (ack 1 ++ okData 0 false ++ okData 0xAAAA5555 false)) with
      | .next t => some (t.loadBuffer.map BitVec.toNat)
      | _ => none) = some [0, 0xAAAA5555] := by decide +kernel
/-- V55: the local address wraps in the trace events. -/
theorem test_local_address_wraps :
    (storeWords Config.vectors [1, 0x80000000] 0xFFFFFFFC
        { answering (ack 1 ++ ack 1) with verbosity := .trace }).2.diag.filterMap (fun d =>
      match d.diag.event with
      | .memStoreWord a _ => some a.toNat
      | _ => none) = [0xFFFFFFFC, 0] := by decide +kernel

/-! ### Steps -/

theorem test_before_initialize : refusal (exec (.dpRead 0 false) State.reset) = some .beforeInitialize := by decide
theorem test_idle_step : step State.reset = .next State.reset := rfl
theorem test_reserved_step :
    refusal (step { linkUp with hostScript := [.cmd { op := 0x1F }] })
      = some (.unknownOperation (.reservedCommand 0x1F)) := by decide
theorem test_fetch_word_runs :
    status linkUp (step (State.reset.withFetchWord 8 0x85)) = some (false, 6, 0xFFFFFFFF, 21) := by decide +kernel

/-! ### Witnesses: for each statement of Certificates/Slice0/Obligations.lean that has hypotheses, states and operands that
meet all of them together, clause by clause and at the ends of each range -/

theorem answering_shows (ls : List Bool) : (answering ls).shows ls :=
  shows_of_script _ ls [] (List.append_nil _).symm

/-- `linkUp` with nothing selected. -/
def unselected (ls : List Bool) : State :=
  { answering ls with selcache := 0xFFFFFFFF }

theorem unselected_shows (ls : List Bool) : (unselected ls).shows ls :=
  shows_of_script _ ls [] (List.append_nil _).symm

theorem witness_DecodeOfEncode :
    (Instr.writeBits 0xFFFFFFFF 32).wellFormed = true ∧ (Instr.apRead 3 0xFC).wellFormed = true ∧
    (Instr.linkInit 5 5 2).wellFormed = true ∧ (Instr.memStoreN 0 1 [7]).wellFormed = true := by decide

theorem witness_EvenParityLinear : (0 : Nat) < 32 ∧ (31 : Nat) < 32 := by decide

theorem witness_SentinelForcesSelect :
    (unselected []).pinsReady = true ∧ (3 : BitVec 8).toNat < Config.params.numPorts ∧
    (unselected []).selcache = Config.params.selcacheInvalid := ⟨rfl, by decide, rfl⟩

theorem witness_WriteBitsDrives : linkUp.pinsReady = true ∧ (0 : BitVec 6).toNat ≤ 32 ∧ (32 : BitVec 6).toNat ≤ 32 := by
  decide

theorem witness_ReadBitsSamples :
    { linkUp with dioMode := .inPU }.pinsReady = true ∧ (0 : BitVec 6).toNat ≤ 32 ∧ (32 : BitVec 6).toNat ≤ 32 ∧
    { linkUp with dioMode := .inPU }.dioMode = .inPU := by decide

theorem witness_ReadBitsWhileDriving :
    linkUp.pinsReady = true ∧ (32 : BitVec 6).toNat ≤ 32 ∧ linkUp.dioMode = .outPP := by decide

theorem witness_TurnaroundsHandOver : linkUp.pinsReady = true := rfl

/-- DpWriteSucceeds, RequestWritesSucceed, and with the line driven ObserverDecodesWrite. -/
theorem witness_WriteSucceeds :
    (answering (writeAnswer 9)).pinsReady = true ∧ 0 < Config.params.waitAttempts ∧ 9 < Config.params.waitAttempts ∧
    (answering (writeAnswer 0)).shows (writeAnswer 0) ∧ (answering (writeAnswer 9)).shows (writeAnswer 9) ∧
    (answering (writeAnswer 9)).dioMode = .outPP :=
  ⟨rfl, by decide, by decide, answering_shows _, answering_shows _, rfl⟩

theorem witness_ObserverDecodesWrite :
    (answering (writeAnswer 9)).pinsReady = true ∧ (answering (writeAnswer 9)).dioMode = .outPP ∧
    9 < Config.params.waitAttempts ∧ (answering (writeAnswer 9)).shows (writeAnswer 9) :=
  ⟨rfl, rfl, by decide, answering_shows _⟩

/-- DpReadSucceeds, RequestReadsSucceed. -/
theorem witness_ReadSucceeds :
    (answering (readAnswer 9 0x12345678)).pinsReady = true ∧ 9 < Config.params.waitAttempts ∧
    (answering (readAnswer 0 0xFFFFFFFF)).shows (readAnswer 0 0xFFFFFFFF) ∧
    (answering (readAnswer 9 0x12345678)).shows (readAnswer 9 0x12345678) ∧
    (answering (readAnswer 9 0x12345678)).dioMode = .outPP :=
  ⟨rfl, by decide, answering_shows _, answering_shows _, rfl⟩

/-- DpWriteFails, DpReadFails, RequestsFail: FAULT at once, an invalid acknowledge on the last attempt, ten WAITs. -/
theorem witness_AcknowledgeFailures :
    linkUp.pinsReady = true ∧
    (0 < Config.params.waitAttempts ∧ (4 : BitVec 3) ≠ Config.params.ackOk ∧ (4 : BitVec 3) ≠ Config.params.ackWait ∧
      (answering (waitLevels 0 ++ ackLevels 4)).shows (waitLevels 0 ++ ackLevels 4)) ∧
    (9 < Config.params.waitAttempts ∧ (7 : BitVec 3) ≠ Config.params.ackOk ∧ (7 : BitVec 3) ≠ Config.params.ackWait ∧
      (answering (waitLevels 9 ++ ackLevels 7)).shows (waitLevels 9 ++ ackLevels 7)) ∧
    (answering (waitLevels 10)).shows (waitLevels Config.params.waitAttempts) :=
  ⟨rfl, ⟨by decide, by decide, by decide, answering_shows _⟩, ⟨by decide, by decide, by decide, answering_shows _⟩,
    answering_shows _⟩

theorem witness_ParityFailureSameWire : linkUp.pinsReady = true ∧ 9 < Config.params.waitAttempts := by decide

theorem witness_TransactionPulseBounds : ∃ t, exec (.dpRead 0 false) linkUp = .next t :=
  finishWord_next (dpRead Config.params 0 false linkUp)

theorem witness_EveryPathDrains :
    makesTransaction (.dpWrite 0 false 0) = true ∧ ∃ t, exec (.dpWrite 0 false 0) linkUp = .next t :=
  ⟨rfl, finishDone_next (dpWrite Config.params 0 false 0 linkUp)⟩

theorem witness_ApSelectCaches :
    linkUp.pinsReady = true ∧ (0 : BitVec 8).toNat < Config.params.numPorts ∧
    (3 : BitVec 8).toNat < Config.params.numPorts ∧ 9 < Config.params.waitAttempts ∧
    selectValue 0 0x0C = linkUp.selcache ∧ selectValue 3 0xF0 ≠ (answering (writeAnswer 9)).selcache ∧
    (answering (writeAnswer 9)).shows (writeAnswer 9) :=
  ⟨rfl, by decide, by decide, by decide, by decide, by decide, answering_shows _⟩

/-- One answer of each failing kind, as AckFailure and ReadFailure list them. -/
theorem witness_failures :
    AckFailure (waitLevels 0 ++ ackLevels 4) .protocolFault 21 ∧ AckFailure (waitLevels 9 ++ ackLevels 0) .protocolError 210 ∧
    AckFailure (waitLevels 10) .waitTimeout 210 ∧ ReadFailure (waitLevels 0 ++ ackLevels 4) .protocolFault 21 ∧
    ReadFailure (readAnswerWith 9 5 (!evenParity 5)) .parityError 243 :=
  ⟨.fault 0 (by decide), .invalid 9 0 (by decide) (by decide), .timeout, .ack _ _ _ (.fault 0 (by decide)),
    .parity 9 5 (by decide)⟩

theorem witness_FailedSelectKeepsCache :
    ((unselected (waitLevels 10)).pinsReady = true ∧ (3 : BitVec 8).toNat < Config.params.numPorts ∧
      selectValue 3 0xF0 ≠ (unselected (waitLevels 10)).selcache ∧ (unselected (waitLevels 10)).shows (waitLevels 10)) ∧
    (∃ t, exec (.apSelect 3 0xF0) (unselected (waitLevels 10)) = .next t ∧ t.result.ok = false) := by
  refine ⟨⟨rfl, by decide, by decide, unselected_shows _⟩, ?_⟩
  obtain ⟨f, t, ht, -⟩ := select_fails 3 0xF0 _ _ _ .timeout (unselected (waitLevels 10)) (by decide)
    (unselected_shows _)
  exact ⟨presentFail .waitTimeout t, congrArg finishDone ht, rfl⟩

/-- ApWriteSucceeds, on a miss (port 3) and on a hit (port 0). -/
theorem witness_ApWriteSucceeds :
    (3 : BitVec 8).toNat < Config.params.numPorts ∧ 9 < Config.params.waitAttempts ∧
    (unselected (writeAnswer 9 ++ writeAnswer 0)).pinsReady = true ∧
    (unselected (writeAnswer 9 ++ writeAnswer 0)).shows
      (selectLevels (unselected (writeAnswer 9 ++ writeAnswer 0)) (selectValue 3 0xF0) 9 ++ writeAnswer 0) ∧
    (answering (writeAnswer 0)).shows (selectLevels (answering (writeAnswer 0)) (selectValue 0 0x0C) 9 ++ writeAnswer 0) :=
  ⟨by decide, by decide, rfl, unselected_shows _, answering_shows _⟩

theorem witness_ApReadSucceeds :
    (3 : BitVec 8).toNat < Config.params.numPorts ∧ 9 < Config.params.waitAttempts ∧
    (unselected (writeAnswer 0 ++ readAnswer 9 7)).pinsReady = true ∧
    (unselected (writeAnswer 0 ++ readAnswer 9 7)).shows
      (selectLevels (unselected (writeAnswer 0 ++ readAnswer 9 7)) (selectValue 3 0xF0) 0 ++ readAnswer 9 7) :=
  ⟨by decide, by decide, rfl, unselected_shows _⟩

theorem witness_SelectionAfterAccess :
    (∃ t, exec (.apSelect 3 0) linkUp = .next t) ∧ (∃ t, exec (.apWrite 3 0 1) linkUp = .next t) ∧
    ∃ t, exec (.apRead 3 0) linkUp = .next t :=
  ⟨finishDone_next (selectAccessPort Config.params 3 0 linkUp), finishDone_next (apWrite Config.params 3 0 1 linkUp),
    finishWord_next (apRead Config.params 3 0 linkUp)⟩

theorem witness_PseudoOperationsExpand :
    linkUp.pinsReady = true ∧ ∃ t, exec (.apSelect 0 0x0C) linkUp = .next t ∧ t.result.ok = true :=
  ⟨rfl, presentDone linkUp, congrArg finishDone (select_hit 0 0x0C linkUp (by decide)), rfl⟩

/-- StoreSucceeds: two words after a select, and no word at all on a hit. -/
theorem witness_StoreSucceeds :
    ([(0, 0x11), (9, 0x22)] : List (Nat × Word)).length = (2 : Word).toNat ∧ 9 < Config.params.waitAttempts ∧
    (∀ p ∈ ([(0, 0x11), (9, 0x22)] : List (Nat × Word)), p.1 < Config.params.waitAttempts) ∧
    (unselected (writeAnswer 9 ++ writeAnswer 0 ++ writeLevels [(0, 0x11), (9, 0x22)])).pinsReady = true ∧
    (unselected (writeAnswer 9 ++ writeAnswer 0 ++ writeLevels [(0, 0x11), (9, 0x22)])).shows
      (selectLevels (unselected (writeAnswer 9 ++ writeAnswer 0 ++ writeLevels [(0, 0x11), (9, 0x22)])) 0 9
        ++ writeAnswer 0 ++ writeLevels [(0, 0x11), (9, 0x22)]) ∧
    (answering (writeAnswer 0)).shows (selectLevels (answering (writeAnswer 0)) 0 9 ++ writeAnswer 0 ++ writeLevels []) :=
  ⟨rfl, by decide, by decide, rfl, unselected_shows _, answering_shows _⟩

theorem witness_LoadSucceeds :
    ([(0, 0x11), (9, 0x22)] : List (Nat × Word)).length = (2 : Word).toNat ∧ 0 < Config.params.waitAttempts ∧
    (∀ p ∈ ([(0, 0x11), (9, 0x22)] : List (Nat × Word)), p.1 < Config.params.waitAttempts) ∧
    (answering (writeAnswer 0 ++ readLevels [(0, 0x11), (9, 0x22)])).pinsReady = true ∧
    (answering (writeAnswer 0 ++ readLevels [(0, 0x11), (9, 0x22)])).shows
      (selectLevels (answering (writeAnswer 0 ++ readLevels [(0, 0x11), (9, 0x22)])) 0 0
        ++ writeAnswer 0 ++ readLevels [(0, 0x11), (9, 0x22)]) :=
  ⟨rfl, by decide, by decide, rfl, answering_shows _⟩

theorem witness_SingleWordSucceeds :
    linkUp.pinsReady = true ∧ 9 < Config.params.waitAttempts ∧
    (unselected (writeAnswer 9 ++ writeAnswer 9 ++ writeAnswer 9)).shows
      (selectLevels (unselected (writeAnswer 9 ++ writeAnswer 9 ++ writeAnswer 9)) 0 9 ++ writeAnswer 9 ++ writeAnswer 9) ∧
    (answering (writeAnswer 9 ++ readAnswer 9 7)).shows
      (selectLevels (answering (writeAnswer 9 ++ readAnswer 9 7)) 0 9 ++ writeAnswer 9 ++ readAnswer 9 7) :=
  ⟨rfl, by decide, unselected_shows _, answering_shows _⟩

/-- StoreAborts: the second of three words answered FAULT. -/
theorem witness_StoreAborts :
    ([(0, 0x11)] : List (Nat × Word)).length + 1 + ([0x33] : List Word).length = (3 : Word).toNat ∧
    0 < Config.params.waitAttempts ∧ AckFailure (waitLevels 0 ++ ackLevels 4) .protocolFault 21 ∧
    (answering (writeAnswer 0 ++ writeLevels [(0, 0x11)] ++ (waitLevels 0 ++ ackLevels 4))).pinsReady = true ∧
    (answering (writeAnswer 0 ++ writeLevels [(0, 0x11)] ++ (waitLevels 0 ++ ackLevels 4))).shows
      (selectLevels (answering (writeAnswer 0 ++ writeLevels [(0, 0x11)] ++ (waitLevels 0 ++ ackLevels 4))) 0 0
        ++ writeAnswer 0 ++ writeLevels [(0, 0x11)] ++ (waitLevels 0 ++ ackLevels 4)) :=
  ⟨rfl, by decide, .fault 0 (by decide), rfl, answering_shows _⟩

/-- LoadAborts: the first of one word with the wrong parity. -/
theorem witness_LoadAborts :
    ([] : List (Nat × Word)).length < (1 : Word).toNat ∧ 0 < Config.params.waitAttempts ∧
    ReadFailure (readAnswerWith 0 5 (!evenParity 5)) .parityError 54 ∧
    (answering (writeAnswer 0 ++ readLevels [] ++ readAnswerWith 0 5 (!evenParity 5))).pinsReady = true ∧
    (answering (writeAnswer 0 ++ readLevels [] ++ readAnswerWith 0 5 (!evenParity 5))).shows
      (selectLevels (answering (writeAnswer 0 ++ readLevels [] ++ readAnswerWith 0 5 (!evenParity 5))) 0 0
        ++ writeAnswer 0 ++ readLevels [] ++ readAnswerWith 0 5 (!evenParity 5)) :=
  ⟨by decide, by decide, .parity 0 5 (by decide), rfl, answering_shows _⟩

theorem witness_FailedTarPreempts :
    ∃ t, exec (.apWrite 0 0x04 0x20000000) (answering (waitLevels 10)) = .next t ∧ t.result.ok = false := by
  obtain ⟨f, t, ht, -⟩ := apWrite_fails 0 0x04 0x20000000 0 (by decide) _ _ _ .timeout (answering (waitLevels 10))
    (answering_shows _)
  exact ⟨presentFail .waitTimeout t, congrArg finishDone ht, rfl⟩

/-- Answers that pass step 4, step 5 on its last poll, and step 6. -/
def idcodeOk : List Bool := readAnswer 0 0x2BA01477
def poweredOk : List Bool :=
  idcodeOk ++ writeAnswer 9 ++ readLevels [(0, 0), (9, 0x20000000), (0, 0x80000000)] ++ readAnswer 0 0xF0000000
def typeOk : List Bool := poweredOk ++ writeAnswer 0 ++ readAnswer 9 0x24770011

theorem idcodeOk_passes : IdcodePassed idcodeOk (transactionPulses 0) 0x2BA01477 := .mk 0 _ (by decide) (by decide)

theorem poweredOk_passes : ∃ n, PoweredUp poweredOk n 0x2BA01477 :=
  ⟨_, .mk _ _ _ 9 [(0, 0), (9, 0x20000000), (0, 0x80000000)] 0 _ idcodeOk_passes (by decide) (by unfold Pending; decide)
    (by decide) (by decide) (by decide)⟩

theorem typeOk_passes : ∃ n, TypeChecked typeOk n 0x2BA01477 := by
  obtain ⟨n, h⟩ := poweredOk_passes
  exact ⟨_, .mk _ _ _ 0 9 _ h (by decide) (by decide) (by decide)⟩

theorem witness_InitializeSucceeds :
    levelOf Config.params 2 = some .trace ∧ (∃ n, TypeChecked typeOk n 0x2BA01477) ∧ 9 < Config.params.waitAttempts ∧
    (answering (typeOk ++ writeAnswer 0 ++ writeAnswer 9)).shows (typeOk ++ writeAnswer 0 ++ writeAnswer 9) :=
  ⟨rfl, typeOk_passes, by decide, answering_shows _⟩

theorem witness_InitializeTransactions :
    levelOf Config.params 0 = some .error ∧ linkUp.clkLevel = true ∧ State.reset.clkLevel = false ∧
    idcodeRecognized Config.params 0x2BA01477 = true ∧
    powerUpAcknowledged Config.params 0xF0000000 = true ∧ isMemoryPort Config.params 0x24770011 = true ∧
    (∀ k ∈ [0, 9, 0, 9, 0, 9, 0], k < Config.params.waitAttempts) ∧
    (answering (readAnswer 0 0x2BA01477 ++ writeAnswer 9 ++ readAnswer 0 0xF0000000 ++ writeAnswer 9
      ++ readAnswer 0 0x24770011 ++ writeAnswer 9 ++ writeAnswer 0)).shows
      (readAnswer 0 0x2BA01477 ++ writeAnswer 9 ++ readAnswer 0 0xF0000000 ++ writeAnswer 9
      ++ readAnswer 0 0x24770011 ++ writeAnswer 9 ++ writeAnswer 0) :=
  ⟨rfl, rfl, rfl, by decide, by decide, by decide, by decide, answering_shows _⟩

/-- InitializeFails and NoDeviceRelabels: every way of InitFailure can happen, and any answer can be shown. -/
theorem witness_InitializeFails :
    levelOf Config.params 2 = some .trace ∧ (∀ ls, (answering ls).shows ls) ∧
    (∃ ls n, InitFailure ls .noDeviceDetected 0xFFFFFFFF n) ∧ (∃ ls n, InitFailure ls .unrecognizedPart 0xFFFFFFFF n) ∧
    (∃ n, InitFailure (idcodeOk ++ waitLevels 10) .waitTimeout 0xFFFFFFFF n) ∧
    (∃ ls n, InitFailure ls .parityError 0xFFFFFFFF n) ∧ (∃ ls n, InitFailure ls .powerUpTimeout 0xFFFFFFFF n) ∧
    (∃ n, InitFailure (poweredOk ++ waitLevels 10) .waitTimeout 0xFFFFFFFF n) ∧
    (∃ n, InitFailure (poweredOk ++ writeAnswer 9 ++ waitLevels 10) .waitTimeout 0xF0 n) ∧
    (∃ ls n, InitFailure ls .unexpectedAccessPortType 0xF0 n) ∧
    (∃ n, InitFailure (typeOk ++ waitLevels 10) .waitTimeout 0xF0 n) ∧
    (∃ n, InitFailure (typeOk ++ writeAnswer 9 ++ waitLevels 10) .waitTimeout 0 n) := by
  obtain ⟨n, hp⟩ := poweredOk_passes
  obtain ⟨m, ht⟩ := typeOk_passes
  exact ⟨rfl, answering_shows, ⟨_, _, .idcodeRead _ _ _ (.ack _ _ _ .timeout)⟩,
    ⟨_, _, .idcodeValue 9 0xFFFFFFFF (by decide) (by decide)⟩, ⟨_, .powerUpWrite _ _ _ _ _ _ idcodeOk_passes .timeout⟩,
    ⟨_, _, .pollRead _ _ _ 0 [(0, 0), (0, 0), (9, 0)] _ _ _ idcodeOk_passes (by decide) (by unfold Pending; decide)
      (by decide) (.parity 9 5 (by decide))⟩,
    ⟨_, _, .powerUpTimeout _ _ _ 0 [(0, 0), (0, 0), (9, 0), (0, 0x20000000)] idcodeOk_passes (by decide)
      (by unfold Pending; decide) rfl⟩,
    ⟨_, .idrSelect _ _ _ _ _ _ hp .timeout⟩, ⟨_, .idrRead _ _ _ 9 _ _ _ hp (by decide) (.ack _ _ _ .timeout)⟩,
    ⟨_, _, .idrValue _ _ _ 9 9 0x04770002 hp (by decide) (by decide) (by decide)⟩,
    ⟨_, .cswSelect _ _ _ _ _ _ ht .timeout⟩, ⟨_, .cswWrite _ _ _ 9 _ _ _ ht (by decide) .timeout⟩⟩

theorem witness_ReadyIffInitialized : ∃ t, exec (.linkInit 0 1 2) State.reset = .next t :=
  finishDone_next (linkInitialize Config.params 0 1 .trace State.reset)

theorem witness_BringupSends : linkUp.pinsReady = true := rfl

theorem witness_SetVerbositySets : (0 : BitVec 2).toNat ≤ 2 ∧ (2 : BitVec 2).toNat ≤ 2 := by decide

theorem linkUp_inv : linkUp.Inv where
  selection := .inr ⟨0, 0, by decide, rfl⟩
  readyPins := fun _ => rfl
  readySelection := fun h => by cases h
  clockRests := fun _ => rfl
  errorCode := by decide
  okCode := fun h => by cases h

theorem witness_StepKeepsInv :
    linkUp.Inv ∧ { linkUp with hostScript := [.cmd { op := 0x06 }] }.Inv ∧
    ∃ t, step { linkUp with hostScript := [.cmd { op := 0x06 }] } = .next t :=
  ⟨linkUp_inv, ⟨linkUp_inv.1, linkUp_inv.2, linkUp_inv.3, linkUp_inv.4, linkUp_inv.5, linkUp_inv.6⟩,
    finishWord_next (dpRead Config.params 0 false linkUp)⟩

/-- For `ReportsAfterDrain`: a command that fails; its first clause has the witness of the frames. -/
theorem witness_ReportsAfterDrain :
    ∃ t, exec (.dpRead 0 false) linkUp = .next t ∧ t.result.ok = false :=
  ⟨_, rfl, by decide +kernel⟩

/-- LinkFrame, EnvironmentFrame, KindsPerCommand, DiagnosticsPerFailure, ReportsAfterDrain's first clause. -/
theorem witness_frames :
    (∃ t, exec (.memStoreN 0 2 [1, 2]) linkUp = .next t) ∧ (∃ t, exec (.evenParity 1) State.reset = .next t) ∧
    (∃ t, exec (.linkInit 0 1 2) State.reset = .next t) ∧ needsPins (.evenParity 1) = false ∧
    (∀ clk dio v, Instr.memStoreN 0 2 [1, 2] ≠ .linkInit clk dio v) :=
  ⟨finishDone_next (memoryStore Config.params 0 [1, 2] linkUp), ⟨_, rfl⟩,
    finishDone_next (linkInitialize Config.params 0 1 .trace State.reset), rfl, by simp⟩

theorem witness_SelectionFrame :
    (usesSelection (.dpWrite 8 false 0xF0) = false ∧ ∃ t, exec (.dpWrite 8 false 0xF0) linkUp = .next t) ∧
    ∃ t, exec (.memLoadN 0 0) linkUp = .next t :=
  ⟨⟨rfl, finishDone_next (dpWrite Config.params 8 false 0xF0 linkUp)⟩,
    finishBuffer_next 0 (memoryLoad Config.params 0 0 linkUp)⟩

theorem witness_EveryLegalCommandEnds :
    (Instr.apWrite 3 0 0).wellFormed = true ∧ (needsPins (.apWrite 3 0 0) = true → linkUp.pinsReady = true) ∧
    (Instr.setVerbosity 2).wellFormed = true ∧ (needsPins (.setVerbosity 2) = true → State.reset.pinsReady = true) := by
  decide

theorem witness_IllegalOperandsRefused :
    linkUp.pinsReady = true ∧ 32 < (33 : BitVec 6).toNat ∧ 32 < (63 : BitVec 6).toNat ∧
    Config.params.numPorts ≤ (4 : BitVec 8).toNat ∧ Config.params.numPorts ≤ (255 : BitVec 8).toNat ∧
    ([] : List Word).length ≠ (1 : Word).toNat := by decide

theorem witness_RefusedBeforeInitialize : needsPins (.dpRead 0 false) = true ∧ State.reset.pinsReady = false := by decide

theorem witness_StepRunsPresented :
    { linkUp with hostScript := [.cmd { op := 0x11, addr := 4 }] }.hostScript = [.cmd { op := 0x11, addr := 4 }] ∧
    decode (.cmd { op := 0x11, addr := 4 }) = .ok (.packHeader 4 false false) := ⟨rfl, rfl⟩

theorem witness_IdleAndUnknown :
    linkUp.hostScript = [] ∧ decode (.request 0x00 0) = .error (.notARequestHeader 0) ∧ (0x12 : BitVec 5).toNat ≥ 0x12 :=
  ⟨rfl, rfl, by decide⟩

end Sys2Proof.Tests
end

/-! PROOFS. The statements of 10_state.md: the invariant, the frames of the link and of SELCACHE, the select operation with
the sentinel cached, and that the diagnostic threshold shows nowhere else. -/

namespace Sys2Proof.Machine

/-! ### One command per step (R40, R42) -/

/-- Settles O58: with `p` presented the port offers `i` and the shortened script, and the step runs that offer. -/
theorem stepRunsPresented : Obligations.StepRunsPresented := by
  intro s p rest i hs hd
  have hoffer : nextCommand s = .command i { s with hostScript := rest } := by simp [nextCommand, hs, hd]
  rw [step, hoffer]
  rfl

/-- All a step can do: an idle core stays as it is, or one command runs, its presentation taken off the script. -/
theorem step_cases {s t : State} (h : step s = .next t) :
    t = s ∨ ∃ i rest, exec i { s with hostScript := rest } = .next t := by
  rw [step, nextCommand] at h
  split at h
  · cases h
    exact .inl rfl
  · rename_i p rest _
    split at h
    · exact .inr ⟨_, rest, h⟩
    · cases h

/-! ### What every command but INITIALIZE does -/

section
variable {s u t : State} {used pulses : Nat} {errs : List Diag} {bits : List (Option Bool)} {K : ErrorKind → Prop}

/-- Complete attempts and the presentation of a result leave the link's own state alone (R163). -/
theorem Closing.sameLink (hc : Closing u t errs K) (hd : Done s u used pulses errs bits) : SameLink s t := by
  rw [hc.same]
  exact { clkPin := hd.wire.clkPin, dioPin := hd.wire.dioPin, verbosity := hd.wire.verbosity
          linkReady := hd.wire.linkReady, pinsReady := hd.wire.pinsReady, hostScript := hd.wire.hostScript }

/-- They leave the clock resting high (R131, R167). -/
theorem Closing.clkLevel (hc : Closing u t errs K) (hd : Done s u used pulses errs bits) : t.clkLevel = true := by
  rw [hc.same]
  exact hd.framed.2.2

/-- What is presented is success or a kind's failure. -/
theorem Closing.succeeded_or_failed (hc : Closing u t errs K) : t.Succeeded ∨ ∃ e, t.FailedWith e := by
  obtain ⟨-, hs⟩ | ⟨f, -, -, hf⟩ := hc.ended
  · exact .inl hs
  · exact .inr ⟨f.kind, hf⟩

end

/-- A command other than INITIALIZE makes complete attempts and presents what they reported, or it makes no attempt at
all; AP_SELECT on a cache hit is among the latter (R201). -/
theorem exec_cases {i : Instr} {s t : State} (hi : ∀ clk dio v, i ≠ .linkInit clk dio v) (he : exec i s = .next t) :
    (∃ u used pulses errs bits K, Done s u used pulses errs bits ∧ Closing u t errs K) ∨ Plain i s t := by
  cases hm : makesTransaction i with
  | true =>
    obtain ⟨u, m, p, ds, b, hd, hc⟩ := (exec_transacted i s t hm hi he).law
    exact .inl ⟨u, m, p, ds, b, _, hd, hc⟩
  | false =>
    by_cases ha : ∃ port addr, i = .apSelect port addr
    · obtain ⟨port, addr, rfl⟩ := ha
      obtain ⟨-, -, ⟨-, rfl⟩ | ⟨u, m, p, ds, b, hd, hc, -⟩⟩ := exec_apSelect port addr s t he
      · exact .inr (plain_of_wire (Wire.refl s) rfl id rfl rfl ⟨rfl, rfl⟩)
      · exact .inl ⟨u, m, p, ds, b, _, hd, hc⟩
    · exact .inr (exec_plain i s t hm (fun port addr h => ha ⟨port, addr, h⟩) he)

/-- Settles O49: an attempt leaves the whole link state alone, and of the commands without attempts only SET_VERBOSITY
writes a field of it. -/
theorem linkFrame : Obligations.LinkFrame := by
  intro i s t he hi
  obtain ⟨u, m, p, ds, b, K, hd, hc⟩ | h := exec_cases hi he
  · have h := hc.sameLink hd
    exact ⟨h.clkPin, h.dioPin, h.linkReady, h.pinsReady, fun _ => h.verbosity⟩
  · exact ⟨h.clkPin, h.dioPin, h.linkReady, h.pinsReady, h.verbosity⟩

/-! ### The selection cache (R24) -/

theorem finishDone_selcache {r : Run Unit} {t : State} (h : finishDone r = .next t) : t.selcache = r.2.selcache := by
  obtain ⟨_ | _, u⟩ := r <;> cases h <;> rfl

theorem finishWord_selcache {r : Run Word} {t : State} (h : finishWord r = .next t) : t.selcache = r.2.selcache := by
  obtain ⟨_ | _, u⟩ := r <;> cases h <;> rfl

theorem finishBuffer_selcache {n : Nat} {r : Run (List Word)} {t : State} (h : finishBuffer n r = .next t) :
    t.selcache = r.2.selcache := by
  obtain ⟨_ | _, u⟩ := r <;> cases h <;> rfl

/-- Continuing a run by a pure function of its value keeps the state it left. -/
theorem andThen_pure_state {α β : Type} (r : Run α) (f : α → β) :
    (andThen r fun a s => (.ok (f a), s)).2 = r.2 := by
  obtain ⟨_ | _, u⟩ := r <;> rfl

/-- A command that uses no selection makes DP transactions or none, and neither writes the cache (R163). -/
theorem exec_keeps_selcache {i : Instr} {s t : State} (hu : usesSelection i = false) (he : exec i s = .next t) :
    t.selcache = s.selcache := by
  cases hm : makesTransaction i with
  | false => exact (exec_plain i s t hm (by rintro port addr rfl; cases hu) he).selcache
  | true =>
    cases i
    case dpWrite a p w => exact (finishDone_selcache (requirePins_next he).2).trans (dpWrite_selcache a p w s)
    case reqDpWrite a3 a2 w => exact (finishDone_selcache (requirePins_next he).2).trans (dpWrite_selcache _ _ w s)
    case reqApWrite a3 a2 w => exact (finishDone_selcache (requirePins_next he).2).trans (dpWrite_selcache _ _ w s)
    case dpRead a p => exact (finishWord_selcache (requirePins_next he).2).trans (dpRead_selcache a p s)
    case reqDpRead a3 a2 => exact (finishWord_selcache (requirePins_next he).2).trans (dpRead_selcache _ _ s)
    case reqApRead a3 a2 => exact (finishWord_selcache (requirePins_next he).2).trans (dpRead_selcache _ _ s)
    all_goals cases hu <;> cases hm

/-- Settles O50: the transactions do not write the cache; the memory commands select only TAR and DRW of port 0. -/
theorem selectionFrame : Obligations.SelectionFrame := by
  intro i s t he
  refine ⟨fun hu => exec_keeps_selcache hu he, fun hm => ?_⟩
  cases i
  case memStore a w =>
    rw [finishDone_selcache (requirePins_next he).2]
    exact memoryStore_selcache a [w] s
  case memLoad a =>
    rw [finishWord_selcache (requirePins_next he).2, andThen_pure_state]
    exact memoryLoad_selcache a 1 s
  case memStoreN a n ws =>
    rw [finishDone_selcache (requireLegal_next (requirePins_next he).2).2]
    exact memoryStore_selcache a ws s
  case memLoadN a n =>
    rw [finishBuffer_selcache (requirePins_next he).2]
    exact memoryLoad_selcache a n.toNat s
  all_goals exact hm.elim

/-- The cache of `t` is that of `s`, or the SELECT value of a legal port (R24, R202). -/
def KeptOrSelected (s t : State) : Prop :=
  t.selcache = s.selcache ∨
    ∃ (port : BitVec 8) (addr : Word), port.toNat < Config.params.numPorts ∧ t.selcache = selectValue port addr

/-- The selection of port 0, bank 0 is the word 0 (R200). -/
theorem keptOrSelected_of_zero {s t : State} (h : t.selcache = s.selcache ∨ t.selcache = 0) : KeptOrSelected s t :=
  h.imp_right fun h0 => ⟨0, 0, by decide, h0⟩

/-- Every command but INITIALIZE. -/
theorem exec_keptOrSelected {i : Instr} {s t : State} (hi : ∀ clk dio v, i ≠ .linkInit clk dio v)
    (he : exec i s = .next t) : KeptOrSelected s t := by
  obtain ⟨hframe, hmem⟩ := selectionFrame i s t he
  cases hu : usesSelection i with
  | false => exact .inl (hframe hu)
  | true =>
    cases i
    case apSelect port addr =>
      obtain ⟨hl, h⟩ := requireLegal_next (requirePins_next he).2
      have hs := select_selcache port addr s
      rw [KeptOrSelected, finishDone_selcache h, hs]
      split
      · exact .inr ⟨port, addr, (portLegal_iff port).mp hl, rfl⟩
      · exact .inl rfl
    case apWrite port addr w =>
      obtain ⟨hl, h⟩ := requireLegal_next (requirePins_next he).2
      rw [KeptOrSelected, finishDone_selcache h]
      exact (apWrite_selcache port addr w s).1.imp_right fun hs => ⟨port, addr, (portLegal_iff port).mp hl, hs⟩
    case apRead port addr =>
      obtain ⟨hl, h⟩ := requireLegal_next (requirePins_next he).2
      rw [KeptOrSelected, finishWord_selcache h]
      exact (apRead_selcache port addr s).1.imp_right fun hs => ⟨port, addr, (portLegal_iff port).mp hl, hs⟩
    case memStore a w => exact keptOrSelected_of_zero (hmem trivial)
    case memLoad a => exact keptOrSelected_of_zero (hmem trivial)
    case memStoreN a n ws => exact keptOrSelected_of_zero (hmem trivial)
    case memLoadN a n => exact keptOrSelected_of_zero (hmem trivial)
    case linkInit clk dio v => exact absurd rfl (hi clk dio v)
    all_goals cases hu

/-! ### The sentinel forces a select (R24, R25, R201) -/

/-- Bit 0 of a SELECT value is clear, and bit 0 of the sentinel is set. -/
theorem selectValue_ne_sentinel (port : BitVec 8) (addr : Word) :
    selectValue port addr ≠ Config.params.selcacheInvalid := by
  intro h
  have hbit := congrArg (fun w : Word => w.getLsbD 0) h
  simp [selectValue] at hbit

/-- A transaction that fails by its acknowledge has made at least one attempt. -/
theorem AckFailure.pulses_ge {ls : List Bool} {e : ErrorKind} {n : Nat} (h : AckFailure ls e n) : 21 ≤ n := by
  cases h with
  | fault k _ => omega
  | invalid k a _ _ => omega
  | timeout => decide

/-- A DP write makes at least one attempt, whatever is answered (R104). -/
theorem dpWrite_pulses_ge (addr : Word) (apndp : Bool) (data : Word) (s : State) :
    21 ≤ pulsesSince s (dpWrite Config.params addr apndp data s).2 := by
  obtain ⟨k, hk, h⟩ | ⟨ls, e, n, ha, h⟩ := write_answers s
  · obtain ⟨t, ht, hd⟩ := dpWrite_succeeds addr apndp data k hk s h
    rw [ht, hd.wire.pulsesSince, transactionPulses]
    omega
  · obtain ⟨f, t, ht, -, hd⟩ := dpWrite_fails addr apndp data ls e n ha s h
    rw [ht, hd.wire.pulsesSince]
    exact ha.pulses_ge

/-- Presenting a result makes no pulse. -/
theorem finishDone_pulsesSince {r : Run Unit} {s t : State} (h : finishDone r = .next t) :
    pulsesSince s t = pulsesSince s r.2 := by
  obtain ⟨_ | _, u⟩ := r <;> cases h <;> rfl

/-- Caching a selection after a run that succeeded, then presenting the result, is presenting it and then caching. -/
theorem finishDone_setSelcache {r : Run Unit} {u : State} (v : Word) (h : finishDone r = .next u) :
    finishDone (andThen r fun _ s => (.ok (), setSelcache v s))
      = .next (if u.result.ok then { u with selcache := v } else u) := by
  obtain ⟨_ | _, t⟩ := r <;> cases h <;> rfl

/-- Settles O9: no SELECT value hits the sentinel, so AP_SELECT is the SELECT write, then the cache if it succeeded. -/
theorem sentinelForcesSelect : Obligations.SentinelForcesSelect := by
  refine ⟨selectValue_ne_sentinel, by decide, fun s port addr hp hport hc => ?_⟩
  have hmiss : selectValue port addr ≠ s.selcache := hc ▸ selectValue_ne_sentinel port addr
  have hwrite : exec (.dpWrite 0x8 false (selectValue port addr)) s
      = finishDone (dpWrite Config.params 0x8 false (selectValue port addr) s) := if_pos hp
  have hselect : exec (.apSelect port addr) s = finishDone (selectAccessPort Config.params port addr s) :=
    (if_pos hp).trans (if_pos ((portLegal_iff port).mpr hport))
  obtain ⟨u, hu⟩ := finishDone_next (dpWrite Config.params 0x8 false (selectValue port addr) s)
  refine ⟨u, hwrite.trans hu, ?_, ?_⟩
  · rw [finishDone_pulsesSince hu]
    exact dpWrite_pulses_ge ..
  · rw [hselect, select_miss _ _ _ hmiss]
    exact finishDone_setSelcache _ hu

/-! ### The invariant -/

/-- Settles O46: the cache holds the sentinel, the link is not ready, the pins are not configured, the code is 0. -/
theorem invAtReset : Obligations.InvAtReset where
  selection := .inl rfl
  readyPins := fun h => by cases h
  readySelection := fun h => by cases h
  clockRests := fun h => by cases h
  errorCode := by decide
  okCode := fun h => by cases h

/-- The part of the invariant about the result port (R41, R260). -/
theorem result_legal {t : State} (h : t.Succeeded ∨ ∃ e, t.FailedWith e) :
    t.result.err.toNat ≤ 8 ∧ (t.result.ok = true → t.result.err = 0) := by
  obtain ⟨-, herr⟩ | ⟨e, hok, herr⟩ := h
  · exact ⟨by simp [herr], fun _ => herr⟩
  · exact ⟨by rw [herr]; cases e <;> decide, fun h => by rw [hok] at h; cases h⟩

/-- A command other than INITIALIZE presents success or a kind's failure (R41). -/
theorem exec_succeeded_or_failed {i : Instr} {s t : State} (hi : ∀ clk dio v, i ≠ .linkInit clk dio v)
    (he : exec i s = .next t) : t.Succeeded ∨ ∃ e, t.FailedWith e := by
  obtain ⟨u, m, p, ds, b, K, -, hc⟩ | h := exec_cases hi he
  · exact hc.succeeded_or_failed
  · exact .inl h.succeeded

/-- It leaves the clock resting high if it rested high before (R131). -/
theorem exec_clkLevel {i : Instr} {s t : State} (hi : ∀ clk dio v, i ≠ .linkInit clk dio v) (he : exec i s = .next t)
    (hs : s.clkLevel = true) : t.clkLevel = true := by
  obtain ⟨u, m, p, ds, b, K, hd, hc⟩ | h := exec_cases hi he
  · exact hc.clkLevel hd
  · exact h.clkLevel hs

/-- A command other than INITIALIZE keeps the invariant: the flags stay, and the cache is kept or takes a selection,
which is never the sentinel. -/
theorem exec_keeps_inv {i : Instr} {s t : State} (hi : ∀ clk dio v, i ≠ .linkInit clk dio v) (hs : s.Inv)
    (he : exec i s = .next t) : t.Inv := by
  obtain ⟨-, -, hready, hpins, -⟩ := linkFrame i s t he hi
  obtain ⟨hcode, hok⟩ := result_legal (exec_succeeded_or_failed hi he)
  obtain ⟨hlegal, hreal⟩ : LegalSelection t.selcache ∧
      (t.linkReady = true → t.selcache ≠ Config.params.selcacheInvalid) := by
    obtain hkept | ⟨port, addr, hport, hsel⟩ := exec_keptOrSelected hi he
    · rw [hkept, hready]
      exact ⟨hs.selection, hs.readySelection⟩
    · rw [hsel]
      exact ⟨.inr ⟨port, addr, hport, rfl⟩, fun _ => selectValue_ne_sentinel port addr⟩
  exact {
    selection := hlegal
    readyPins := by rw [hready, hpins]; exact hs.readyPins
    readySelection := hreal
    clockRests := fun h => exec_clkLevel hi he (hs.clockRests (hpins ▸ h))
    errorCode := hcode
    okCode := hok }

/-- INITIALIZE establishes the invariant from every state: the ready flag comes after the CSW access only, whose selection
is cached (R221, R227, R228). -/
theorem linkInit_establishes_inv {clk dio : PinId} {v : BitVec 2} {s t : State}
    (he : exec (.linkInit clk dio v) s = .next t) : t.Inv := by
  have hlegal := exec_linkInit_selection clk dio v s t he
  obtain ⟨l, s2, u, m, p, ds, b, -, hb, hd, hend⟩ := exec_linkInit clk dio v s t he
  have hpins : u.pinsReady = true := hd.wire.pinsReady.trans hb.pinsReady
  have hready : u.linkReady = false := hd.wire.linkReady.trans hb.linkReady
  obtain ⟨-, -, hclk⟩ := hd.framed
  obtain ⟨rfl, -, hsel⟩ | ⟨f, rfl, -⟩ := hend
  · obtain ⟨hcode, hok⟩ := result_legal (t := presentDone (markReady u)) (.inl ⟨rfl, rfl⟩)
    have hreal : u.selcache ≠ Config.params.selcacheInvalid := by rw [hsel]; decide
    exact ⟨hlegal, fun _ => hpins, fun _ => hreal, fun _ => hclk, hcode, hok⟩
  · obtain ⟨hcode, hok⟩ := result_legal (t := presentFail f.kind u) (.inr ⟨f.kind, rfl, rfl⟩)
    exact ⟨hlegal, fun _ => hpins, fun h => absurd (hready.symm.trans h) Bool.false_ne_true, fun _ => hclk, hcode, hok⟩

/-- The host's script is no part of the invariant. -/
theorem inv_of_script {s : State} (h : s.Inv) (rest : List Presented) : { s with hostScript := rest }.Inv where
  selection := h.selection
  readyPins := h.readyPins
  readySelection := h.readySelection
  clockRests := h.clockRests
  errorCode := h.errorCode
  okCode := h.okCode

/-- Settles O47: INITIALIZE establishes the invariant, every other command keeps it, and an idle step changes nothing. -/
theorem stepKeepsInv : Obligations.StepKeepsInv := by
  intro s t hs h
  obtain rfl | ⟨i, rest, he⟩ := step_cases h
  · exact hs
  · by_cases hi : ∃ clk dio v, i = .linkInit clk dio v
    · obtain ⟨clk, dio, v, rfl⟩ := hi
      exact linkInit_establishes_inv he
    · exact exec_keeps_inv (fun clk dio v h => hi ⟨clk, dio, v, h⟩) (inv_of_script hs rest) he

/-! ### The threshold and the sink (R27, R46, R318) -/

/-- Two commands ended alike: in states equal but for the threshold and the diagnostics, or with the same refusal. -/
inductive AlikeOutcome : Host.Outcome State Fault Refusal → Host.Outcome State Fault Refusal → Prop where
  | next {t u : State} (h : Alike t u) : AlikeOutcome (.next t) (.next u)
  | refused (r : Refusal) : AlikeOutcome (.refused r) (.refused r)

/-- Two runs that ended alike both succeeded with one value, or both failed with one kind. -/
theorem AlikeRun.cases {α : Type} {r q : Run α} (h : AlikeRun r q) :
    (∃ a s u, r = (.ok a, s) ∧ q = (.ok a, u) ∧ Alike s u) ∨
      ∃ e s u, r = (.error e, s) ∧ q = (.error e, u) ∧ Alike s u := by
  obtain ⟨x, s⟩ := r
  obtain ⟨y, u⟩ := q
  obtain ⟨he, hs⟩ := h
  cases he
  cases x with
  | ok a => exact .inl ⟨a, s, u, rfl, rfl, hs⟩
  | error e => exact .inr ⟨e, s, u, rfl, rfl, hs⟩

theorem AlikeRun.finishDone {r q : Run Unit} (h : AlikeRun r q) :
    AlikeOutcome (Machine.finishDone r) (Machine.finishDone q) := by
  obtain ⟨_, s, u, rfl, rfl, hs⟩ | ⟨e, s, u, rfl, rfl, hs⟩ := h.cases
  · exact .next (alike_presentDone hs)
  · exact .next (alike_presentFail hs e)

theorem AlikeRun.finishWord {r q : Run Word} (h : AlikeRun r q) :
    AlikeOutcome (Machine.finishWord r) (Machine.finishWord q) := by
  obtain ⟨w, s, u, rfl, rfl, hs⟩ | ⟨e, s, u, rfl, rfl, hs⟩ := h.cases
  · exact .next (alike_presentWord hs w)
  · exact .next (alike_presentFail hs e)

theorem AlikeRun.finishBuffer (n : Nat) {r q : Run (List Word)} (h : AlikeRun r q) :
    AlikeOutcome (Machine.finishBuffer n r) (Machine.finishBuffer n q) := by
  obtain ⟨ws, s, u, rfl, rfl, hs⟩ | ⟨e, s, u, rfl, rfl, hs⟩ := h.cases
  · exact .next (alike_presentDone (alike_fillBuffer hs ws))
  · exact .next (alike_presentFail (alike_spoilBuffer hs n) e)

/-- The guards look at neither field. -/
theorem AlikeOutcome.requirePins {s u : State} (h : Alike s u) {k l : Host.Outcome State Fault Refusal}
    (hk : AlikeOutcome k l) : AlikeOutcome (Machine.requirePins s k) (Machine.requirePins u l) := by
  have hp : u.pinsReady = s.pinsReady := by obtain ⟨v, d, rfl⟩ := h; rfl
  rw [Machine.requirePins, Machine.requirePins, hp]
  split
  · exact hk
  · exact .refused _

theorem AlikeOutcome.requireLegal (b : Bool) (r : Refusal) {k l : Host.Outcome State Fault Refusal}
    (hk : AlikeOutcome k l) : AlikeOutcome (Machine.requireLegal b r k) (Machine.requireLegal b r l) := by
  cases b with
  | true => exact hk
  | false => exact .refused r

/-- Every command, run in two states alike, ends alike. -/
theorem exec_alike (i : Instr) {s u : State} (h : Alike s u) : AlikeOutcome (exec i s) (exec i u) := by
  cases i
  case writeBits v n => exact .requirePins h (.requireLegal _ _ (.next (alike_presentDone (alike_writeBits h v _))))
  case readBits n =>
    refine .requirePins h (.requireLegal _ _ (.next ?_))
    rw [alike_readValue h]
    exact alike_presentWord (alike_readBits h _) _
  case writeTurnaround => exact .requirePins h (.next (alike_presentDone (alike_writeTurnaround h)))
  case readTurnaround => exact .requirePins h (.next (alike_presentDone (alike_readTurnaround h)))
  case dpWrite a p w => exact .requirePins h (alike_dpWrite _ a p w h).finishDone
  case dpRead a p => exact .requirePins h (alike_dpRead _ a p h).finishWord
  case apSelect port a => exact .requirePins h (.requireLegal _ _ (alike_select _ port a h).finishDone)
  case apWrite port a w => exact .requirePins h (.requireLegal _ _ (alike_apWrite _ port a w h).finishDone)
  case apRead port a => exact .requirePins h (.requireLegal _ _ (alike_apRead _ port a h).finishWord)
  case linkInit clk dio v =>
    simp only [exec, execLinkInit]
    split
    · exact (alike_bringUp _ (alike_linkStep2 (alike_linkStep1 h _ clk dio _) _)).finishDone
    · exact .refused _
  case memStore a w => exact .requirePins h (alike_memoryStore _ a [w] h).finishDone
  case memLoad a =>
    exact .requirePins h ((alike_memoryLoad _ a 1 h).andThen fun _ _ _ h => ⟨rfl, h⟩).finishWord
  case memStoreN a n ws => exact .requirePins h (.requireLegal _ _ (alike_memoryStore _ a ws h).finishDone)
  case memLoadN a n => exact .requirePins h ((alike_memoryLoad _ a _ h).finishBuffer _)
  case setVerbosity level =>
    simp only [exec, execSetVerbosity]
    split
    · exact .next (alike_presentDone (alike_putVerbosity h _))
    · exact .refused _
  case evenParity w => exact .next (alike_presentWord h _)
  case packHeader a p r => exact .next (alike_presentWord h _)
  case reqDpWrite a3 a2 w => exact .requirePins h (alike_dpWrite _ _ _ w h).finishDone
  case reqDpRead a3 a2 => exact .requirePins h (alike_dpRead _ _ _ h).finishWord
  case reqApWrite a3 a2 w => exact .requirePins h (alike_dpWrite _ _ _ w h).finishDone
  case reqApRead a3 a2 => exact .requirePins h (alike_dpRead _ _ _ h).finishWord
  case bringupSeq => exact .requirePins h (.next (alike_presentDone (alike_linkStep2 h _)))

/-- Settles O48: the two starting states are alike, and so every command ends alike. -/
theorem verbosityNeverInterferes : Obligations.VerbosityNeverInterferes := by
  intro i s v d
  have h : AlikeOutcome (exec i s) (exec i { s with verbosity := v, diag := d }) := exec_alike i ⟨v, d, rfl⟩
  generalize exec i s = x, exec i { s with verbosity := v, diag := d } = y at h ⊢
  cases h with
  | next h =>
    obtain ⟨v', d', rfl⟩ := h
    rfl
  | refused r => rfl

end Sys2Proof.Machine

/-! PROOFS. The statement of 20_memory.md: what no command takes back from its environment. -/

namespace Sys2Proof.Machine

/-! ### What has been handed over stays (R40, R45, R73) -/

/-- `t` has the outputs of `s` and perhaps more after them, the target's answers of `s` but for some used up from the
front, and the host's presentations of `s`. -/
structure TakesNothingBack (s t : State) : Prop where
  gpio : s.gpio <+: t.gpio
  diag : s.diag <+: t.diag
  targetScript : ∃ n, t.targetScript = s.targetScript.drop n
  hostScript : t.hostScript = s.hostScript

section
variable {s t u : State}

theorem TakesNothingBack.trans (h : TakesNothingBack s t) (k : TakesNothingBack t u) : TakesNothingBack s u where
  gpio := h.gpio.trans k.gpio
  diag := h.diag.trans k.diag
  targetScript := by
    obtain ⟨m, hm⟩ := h.targetScript
    obtain ⟨n, hn⟩ := k.targetScript
    exact ⟨m + n, by rw [hn, hm, List.drop_drop]⟩
  hostScript := k.hostScript.trans h.hostScript

theorem Wire.takesNothingBack {used pulses : Nat} {errs : List Diag} (h : Wire s t used pulses errs) :
    TakesNothingBack s t :=
  ⟨h.gpio, h.diag, ⟨used, h.target⟩, h.hostScript⟩

theorem Plain.takesNothingBack {i : Instr} (h : Plain i s t) : TakesNothingBack s t :=
  ⟨h.gpio, h.diag, h.script, h.hostScript⟩

theorem Begun.takesNothingBack {clk dio : PinId} {l : Level} (h : Begun s u clk dio l) : TakesNothingBack s u where
  gpio := by
    obtain ⟨es, hes, -⟩ := h.gpio
    exact ⟨es, hes.symm⟩
  diag := h.diag
  targetScript := ⟨0, h.targetScript⟩
  hostScript := h.hostScript

/-- The presentation of a result touches no stream (R41). -/
theorem Closing.takesNothingBack {errs : List Diag} {K : ErrorKind → Prop} (hc : Closing u t errs K)
    (h : TakesNothingBack s u) : TakesNothingBack s t := by
  rw [hc.same]
  exact ⟨h.gpio, h.diag, h.targetScript, h.hostScript⟩

/-- The two steps before INITIALIZE's transactions, and then these, only add (R220 to R228). -/
theorem linkInit_takesNothingBack {clk dio : PinId} {v : BitVec 2} (he : exec (.linkInit clk dio v) s = .next t) :
    TakesNothingBack s t := by
  obtain ⟨l, s2, u, m, p, ds, b, -, hb, hd, hend⟩ := exec_linkInit clk dio v s t he
  obtain ⟨hgpio, hdiag, htarget, hhost⟩ := hb.takesNothingBack.trans hd.wire.takesNothingBack
  obtain ⟨rfl, -⟩ | ⟨f, rfl, -⟩ := hend <;> exact ⟨hgpio, hdiag, htarget, hhost⟩

/-- Every command. -/
theorem exec_takesNothingBack {i : Instr} (he : exec i s = .next t) : TakesNothingBack s t := by
  by_cases hi : ∃ clk dio v, i = .linkInit clk dio v
  · obtain ⟨clk, dio, v, rfl⟩ := hi
    exact linkInit_takesNothingBack he
  · obtain ⟨u, m, p, ds, b, K, hd, hc⟩ | h := exec_cases (fun clk dio v h => hi ⟨clk, dio, v, h⟩) he
    · exact hc.takesNothingBack hd.wire.takesNothingBack
    · exact h.takesNothingBack

/-! ### The load buffer (R233) -/

theorem linkInit_loadBuffer {clk dio : PinId} {v : BitVec 2} (he : exec (.linkInit clk dio v) s = .next t) :
    t.loadBuffer = s.loadBuffer := by
  obtain ⟨l, s2, u, m, p, ds, b, -, hb, hd, hend⟩ := exec_linkInit clk dio v s t he
  have hkept : u.loadBuffer = s.loadBuffer := hd.wire.loadBuffer.trans hb.loadBuffer
  obtain ⟨rfl, -⟩ | ⟨f, rfl, -⟩ := hend <;> exact hkept

theorem apSelect_loadBuffer {port : BitVec 8} {addr : Word} (he : exec (.apSelect port addr) s = .next t) :
    t.loadBuffer = s.loadBuffer := by
  obtain ⟨-, -, ⟨-, rfl⟩ | ⟨u, m, p, ds, b, -, -, hkept⟩⟩ := exec_apSelect port addr s t he
  · rfl
  · exact hkept

/-- Only MEM_LOAD_N writes the buffer. -/
theorem exec_keeps_loadBuffer {i : Instr} (hn : ∀ address count, i ≠ .memLoadN address count)
    (he : exec i s = .next t) : t.loadBuffer = s.loadBuffer := by
  cases hm : makesTransaction i with
  | true =>
    by_cases hi : ∃ clk dio v, i = .linkInit clk dio v
    · obtain ⟨clk, dio, v, rfl⟩ := hi
      exact linkInit_loadBuffer he
    · exact (exec_transacted i s t hm (fun clk dio v h => hi ⟨clk, dio, v, h⟩) he).buffer hn
  | false =>
    by_cases ha : ∃ port addr, i = .apSelect port addr
    · obtain ⟨port, addr, rfl⟩ := ha
      exact apSelect_loadBuffer he
    · exact (exec_plain i s t hm (fun port addr h => ha ⟨port, addr, h⟩) he).loadBuffer

/-! ### The commands that do not touch the wire (R160, R162, R236) -/

/-- A command that does not need the pins makes no transaction, INITIALIZE apart (R302). -/
theorem makesTransaction_of_not_needsPins {i : Instr} (hp : needsPins i = false)
    (hi : ∀ clk dio v, i ≠ .linkInit clk dio v) : makesTransaction i = false := by
  cases i
  case linkInit clk dio v => exact absurd rfl (hi clk dio v)
  case setVerbosity level => rfl
  case evenParity w => rfl
  case packHeader addr apndp rnw => rfl
  all_goals cases hp

theorem exec_silent {i : Instr} (hp : needsPins i = false) (hi : ∀ clk dio v, i ≠ .linkInit clk dio v)
    (he : exec i s = .next t) : Silent s t ∧ SamePins s t := by
  have hplain := exec_plain i s t (makesTransaction_of_not_needsPins hp hi) (by rintro port addr rfl; cases hp) he
  obtain ⟨hgpio, hdiag, htarget, hclk, hmode, hlatch⟩ := hplain.silent hp
  exact ⟨⟨hgpio, hdiag, htarget⟩, ⟨hclk, hmode, hlatch⟩⟩

end

/-- Settles O51: the streams by composing what steps, attempts and presentations do to them, then the buffer and the
silent commands, each from the law of its kind of command. -/
theorem environmentFrame : Obligations.EnvironmentFrame := by
  intro i s t he
  obtain ⟨hgpio, hdiag, htarget, hhost⟩ := exec_takesNothingBack he
  exact ⟨hgpio, hdiag, htarget, hhost, fun hn => exec_keeps_loadBuffer hn he, fun hp hi => exec_silent hp hi he⟩

end Sys2Proof.Machine

/-! PROOFS. The statements of 30_encoding.md: the decoder and the encoder, the request header, the request rows as DP
transactions, the pseudo-operations, the bring-up sequence, and the refusals of illegal operands. -/

namespace Sys2Proof

/-! ### The request header (R95, R97) -/

/-- The fields of a header: the class bits of mask 0xC7 (start, APnDP, RnW, stop and park, R98), and the two address
bits. -/
theorem packHeader_fields (addr : Word) (apndp rnw : Bool) :
    (packHeader addr apndp rnw &&& 0xC7#8).toNat = 0x81 + 2 * apndp.toNat + 4 * rnw.toNat ∧
      (packHeader addr apndp rnw).getLsbD 3 = addr.getLsbD 2 ∧
      (packHeader addr apndp rnw).getLsbD 4 = addr.getLsbD 3 := by
  unfold packHeader headerParity
  generalize addr.getLsbD 2 = a2
  generalize addr.getLsbD 3 = a3
  revert a2 a3 apndp rnw
  decide

/-- Of the address a header carries bits 2 and 3 alone. -/
theorem packHeader_congr {addr addr' : Word} (h2 : addr.getLsbD 2 = addr'.getLsbD 2)
    (h3 : addr.getLsbD 3 = addr'.getLsbD 3) (apndp rnw : Bool) :
    packHeader addr apndp rnw = packHeader addr' apndp rnw := by
  simp only [packHeader, headerParity, h2, h3]

theorem registerAddress_getLsbD_two (a3 a2 : Bool) : (registerAddress a3 a2).getLsbD 2 = a2 := by
  cases a3 <;> cases a2 <;> rfl

theorem registerAddress_getLsbD_three (a3 a2 : Bool) : (registerAddress a3 a2).getLsbD 3 = a3 := by
  cases a3 <;> cases a2 <;> rfl

/-! ### Decoding (R92, R98, R105) -/

/-- The request row of a class, for the register at address bits `a3`, `a2` (R98); a read has no payload. -/
def requestRow (apndp rnw a3 a2 : Bool) (data : Word) : Instr :=
  match apndp, rnw with
  | false, false => .reqDpWrite a3 a2 data
  | false, true => .reqDpRead a3 a2
  | true, false => .reqApWrite a3 a2 data
  | true, true => .reqApRead a3 a2

/-- The class bits of a built header choose the row, bits 4 and 3 give the address. -/
theorem decode_packHeader (addr : Word) (apndp rnw : Bool) (data : Word) :
    decode (.request (packHeader addr apndp rnw) data)
      = .ok (requestRow apndp rnw (addr.getLsbD 3) (addr.getLsbD 2) data) := by
  obtain ⟨hclass, h2, h3⟩ := packHeader_fields addr apndp rnw
  rw [decode, decodeRequest, hclass, h2, h3]
  cases apndp <;> cases rnw <;> rfl

theorem decode_registerHeader (apndp rnw a3 a2 : Bool) (data : Word) :
    decode (.request (packHeader (registerAddress a3 a2) apndp rnw) data) = .ok (requestRow apndp rnw a3 a2 data) := by
  rw [decode_packHeader, registerAddress_getLsbD_two, registerAddress_getLsbD_three]

/-- Settles O3, by the class and the address bits of the built header. -/
theorem builtHeaderDecodes : Obligations.BuiltHeaderDecodes :=
  decode_packHeader

/-- Settles O1: a command code is read back with its ports, a request row by its built header, the sequence by its bits. -/
theorem decodeOfEncode : Obligations.DecodeOfEncode := by
  rintro i -
  cases i
  case reqDpWrite a3 a2 data => exact decode_registerHeader false false a3 a2 data
  case reqDpRead a3 a2 => exact decode_registerHeader false true a3 a2 0
  case reqApWrite a3 a2 data => exact decode_registerHeader true false a3 a2 data
  case reqApRead a3 a2 => exact decode_registerHeader true true a3 a2 0
  case bringupSeq => exact if_pos rfl
  all_goals rfl

/-- Settles O2: each word's presentation and its decoding are computed. -/
theorem wordsDecode : Obligations.WordsDecode :=
  ⟨rfl, rfl, rfl, rfl, rfl, rfl, rfl, rfl, rfl⟩

/-- Settles O4: the rows are computed, and the mask 0xC keeps the two address bits a header carries. -/
theorem headerTable : Obligations.HeaderTable := by
  refine ⟨fun r hr => ?_, by decide, by decide, rfl, fun addr apndp rnw => ?_⟩
  · fin_cases hr <;> decide
  · exact packHeader_congr (by simp) (by simp) apndp rnw

end Sys2Proof

namespace Sys2Proof.Machine

/-! ### What an observer reads of a write attempt (R95, R100) -/

@[simp] theorem length_shortAttempts (header : BitVec 8) (k : Nat) : (shortAttempts header k).length = 21 * k := by
  simp [shortAttempts, shortAttempt, Nat.mul_comm]

theorem observedHeader_writeAttempt (header : BitVec 8) (data : Word) :
    observedHeader (writeAttempt header data) = header := by
  have hbits : (writeAttempt header data).take 8 = (lsbBits header 8).map some := by
    rw [writeAttempt, List.append_assoc, List.take_left' (by simp)]
  simp [observedHeader, hbits, wordOfBits_lsbBits_setWidth header 8 (Nat.le_refl 8)]

theorem observedData_writeAttempt (header : BitVec 8) (data : Word) :
    observedData (writeAttempt header data) = data := by
  have hbits : ((writeAttempt header data).drop 13).take 32 = (lsbBits data 32).map some := by
    rw [writeAttempt, List.drop_left' (by simp), List.append_assoc, List.map_append, List.take_left' (by simp)]
  simp [observedData, hbits]

/-! ### A DP transaction and the presentation of its result (R163, R168, R173) -/

/-- Wire activity that kept the cache, then a presentation, which writes the result port and the counter alone. -/
theorem Wire.sameButWire {s u t : State} {used pulses : Nat} {errs : List Diag} (hw : Wire s u used pulses errs)
    (hs : u.selcache = s.selcache) (ht : t = { u with result := t.result, freeCount := t.freeCount }) :
    SameButWire s t := by
  rw [ht]
  exact { clkPin := hw.clkPin, dioPin := hw.dioPin, verbosity := hw.verbosity, linkReady := hw.linkReady
          pinsReady := hw.pinsReady, hostScript := hw.hostScript, selcache := hs, loadBuffer := hw.loadBuffer }

/-- What a transaction leaves in `t`, its result presented: the line framed, everything but the wire as it was, the
answers used up, the pulses, the diagnostics and what an observer saw. -/
structure TransactionEnd (s t : State) (used pulses : Nat) (errs : List Diag) (bits : List (Option Bool)) : Prop where
  framed : t.Framed
  same : SameButWire s t
  target : t.targetScript = s.targetScript.drop used
  pulses : pulsesSince s t = pulses
  errors : t.errorEvents = s.errorEvents ++ errs
  seen : s.dioMode = .outPP → bitsSince s t = bits

/-- Complete attempts that kept the cache, then a presentation. -/
theorem Done.presented {s u t : State} {used pulses : Nat} {errs : List Diag} {bits : List (Option Bool)}
    (hd : Done s u used pulses errs bits) (hs : u.selcache = s.selcache)
    (ht : t = { u with result := t.result, freeCount := t.freeCount }) : TransactionEnd s t used pulses errs bits where
  framed := by rw [ht]; exact hd.framed
  same := hd.wire.sameButWire hs ht
  target := by rw [ht]; exact hd.wire.target
  pulses := by rw [ht]; exact hd.wire.pulsesSince
  errors := by rw [ht]; exact hd.wire.errors
  seen := by rw [ht]; exact hd.seen

theorem exec_dpWrite {s : State} (hp : s.pinsReady = true) (addr : Word) (apndp : Bool) (data : Word) :
    exec (.dpWrite addr apndp data) s = finishDone (dpWrite Config.params addr apndp data s) := if_pos hp

theorem exec_dpRead {s : State} (hp : s.pinsReady = true) (addr : Word) (apndp : Bool) :
    exec (.dpRead addr apndp) s = finishWord (dpRead Config.params addr apndp s) := if_pos hp

/-- A DP write answered OK within its budget (R168, R169, R178). -/
theorem dpWrite_writeSucceeds (addr : Word) (apndp : Bool) (data : Word) :
    WriteSucceeds (.dpWrite addr apndp data) (packHeader addr apndp false) data := by
  intro s k hp hk h
  obtain ⟨u, hu, hd⟩ := dpWrite_succeeds addr apndp data k hk s h
  have hs := dpWrite_selcache addr apndp data s
  rw [hu] at hs
  have he := hd.presented (t := presentDone u) hs rfl
  exact ⟨presentDone u, by rw [exec_dpWrite hp, hu]; rfl, ⟨rfl, rfl⟩, he.framed, he.same, by simpa using he.errors,
    he.target, he.pulses, he.seen⟩

/-- A DP read answered OK with consistent parity within its budget (R173, R174, R178). -/
theorem dpRead_readSucceeds (addr : Word) (apndp : Bool) :
    ReadSucceeds (.dpRead addr apndp) (packHeader addr apndp true) := by
  intro s k w hp hk h
  obtain ⟨u, hu, hd⟩ := dpRead_succeeds addr apndp k hk w s h
  have hs := dpRead_selcache addr apndp s
  rw [hu] at hs
  have he := hd.presented (t := presentWord w u) hs rfl
  exact ⟨presentWord w u, by rw [exec_dpRead hp, hu]; rfl, ⟨rfl, rfl⟩, rfl, he.framed, he.same,
    by simpa using he.errors, he.target, he.pulses, he.seen⟩

/-- Settles O24: the write succeeds, its attempt `k + 1` is the write attempt, and that attempt carries header and data. -/
theorem observerDecodesWrite : Obligations.ObserverDecodesWrite := by
  intro s addr apndp data k hp hm hk h
  obtain ⟨t, he, -, -, -, -, -, -, hseen⟩ := dpWrite_writeSucceeds addr apndp data s k hp hk h
  have hattempt : (bitsSince s t).drop (21 * k) = writeAttempt (packHeader addr apndp false) data := by
    rw [hseen hm, writeTransaction, List.drop_left' (length_shortAttempts _ k)]
  refine ⟨t, he, ?_⟩
  simp only [hattempt, observedHeader_writeAttempt, observedData_writeAttempt, decode_packHeader]
  cases apndp <;> rfl

/-! ### Failure by the acknowledge (R170 to R172, R175 to R178) -/

theorem ackFailure_kind (request : Request) (a : BitVec 3) :
    (ackFailure request a).kind = if a = Config.params.ackFault then .protocolFault else .protocolError := by
  unfold ackFailure
  split <;> rfl

/-- `i`, run from `s`, fails with `f` after complete attempts that kept the cache. -/
def FailsAfter (i : Instr) (s : State) (f : Failure) (used pulses : Nat) (bits : List (Option Bool)) : Prop :=
  ∃ u, exec i s = .next (presentFail f.kind u) ∧ u.selcache = s.selcache ∧
    Done s u used pulses [⟨.error, .failure f⟩] bits

/-- What such a failure presents and leaves. -/
theorem FailsAfter.completes {i : Instr} {s : State} {f : Failure} {used pulses : Nat} {bits : List (Option Bool)}
    (h : FailsAfter i s f used pulses bits) : Completes i s fun t =>
      t.FailedWith f.kind ∧ TransactionEnd s t used pulses [⟨.error, .failure f⟩] bits := by
  obtain ⟨u, he, hs, hd⟩ := h
  exact ⟨presentFail f.kind u, he, ⟨rfl, rfl⟩, hd.presented hs rfl⟩

/-- A transaction that fails with the failure of its acknowledge, or with WaitTimeout. -/
theorem acknowledgeFailures_of_failsAfter {i : Instr} {header : BitVec 8} {request : Request}
    (hother : ∀ (s : State) (k : Nat) (a : BitVec 3), s.pinsReady = true → k < Config.params.waitAttempts →
      a ≠ Config.params.ackOk → a ≠ Config.params.ackWait → s.shows (waitLevels k ++ ackLevels a) →
      FailsAfter i s (ackFailure request a) (3 * k + 3) (21 * (k + 1)) (shortAttempts header (k + 1)))
    (hwait : ∀ s : State, s.pinsReady = true → s.shows (waitLevels Config.params.waitAttempts) →
      FailsAfter i s (.waitTimeout request) (3 * Config.params.waitAttempts) (21 * Config.params.waitAttempts)
        (shortAttempts header Config.params.waitAttempts)) :
    AcknowledgeFailures i header request := by
  refine ⟨fun s k a hp hk hok hw h => ?_, fun s hp h => ?_⟩
  · obtain ⟨t, he, hf, hend⟩ := (hother s k a hp hk hok hw h).completes
    rw [ackFailure_kind] at hf
    exact ⟨t, he, hf, hend.framed, hend.same, hend.target, hend.pulses, hend.errors, hend.seen⟩
  · obtain ⟨t, he, hf, hend⟩ := (hwait s hp h).completes
    exact ⟨t, he, hf, hend.framed, hend.same, hend.target, hend.pulses, hend.errors, hend.seen⟩

/-- A DP write that ended in a failure. -/
theorem failsAfter_dpWrite {s u : State} {addr : Word} {apndp : Bool} {data : Word} {f : Failure} {used pulses : Nat}
    {bits : List (Option Bool)} (hp : s.pinsReady = true)
    (hu : dpWrite Config.params addr apndp data s = (.error f.kind, u))
    (hd : Done s u used pulses [⟨.error, .failure f⟩] bits) :
    FailsAfter (.dpWrite addr apndp data) s f used pulses bits := by
  have hs := dpWrite_selcache addr apndp data s
  rw [hu] at hs
  exact ⟨u, by rw [exec_dpWrite hp, hu]; rfl, hs, hd⟩

/-- A DP read that ended in a failure. -/
theorem failsAfter_dpRead {s u : State} {addr : Word} {apndp : Bool} {f : Failure} {used pulses : Nat}
    {bits : List (Option Bool)} (hp : s.pinsReady = true)
    (hu : dpRead Config.params addr apndp s = (.error f.kind, u))
    (hd : Done s u used pulses [⟨.error, .failure f⟩] bits) :
    FailsAfter (.dpRead addr apndp) s f used pulses bits := by
  have hs := dpRead_selcache addr apndp s
  rw [hu] at hs
  exact ⟨u, by rw [exec_dpRead hp, hu]; rfl, hs, hd⟩

/-- A DP write fails by its acknowledge (R170 to R172, R178). -/
theorem dpWrite_acknowledgeFailures (addr : Word) (apndp : Bool) (data : Word) :
    AcknowledgeFailures (.dpWrite addr apndp data) (packHeader addr apndp false) ⟨addr, apndp, .write data⟩ := by
  refine acknowledgeFailures_of_failsAfter (fun s k a hp hk hok hw h => ?_) fun s hp h => ?_
  · obtain ⟨u, hu, hd⟩ := dpWriteLoop_fails addr apndp data _ k hk (log .trace (.transaction _) s) a hok hw h
    exact failsAfter_dpWrite hp hu hd.after_log
  · obtain ⟨u, hu, hd⟩ := dpWriteLoop_times_out addr apndp data _ (by decide) (log .trace (.transaction _) s) h
    exact failsAfter_dpWrite hp hu hd.after_log

/-- A DP read fails by its acknowledge (R175 to R178). -/
theorem dpRead_acknowledgeFailures (addr : Word) (apndp : Bool) :
    AcknowledgeFailures (.dpRead addr apndp) (packHeader addr apndp true) ⟨addr, apndp, .read⟩ := by
  refine acknowledgeFailures_of_failsAfter (fun s k a hp hk hok hw h => ?_) fun s hp h => ?_
  · obtain ⟨u, hu, hd⟩ := dpReadLoop_fails addr apndp _ k hk (log .trace (.transaction _) s) a hok hw h
    exact failsAfter_dpRead hp hu hd.after_log
  · obtain ⟨u, hu, hd⟩ := dpReadLoop_times_out addr apndp _ (by decide) (log .trace (.transaction _) s) h
    exact failsAfter_dpRead hp hu hd.after_log

/-! ### The request rows (R98) -/

theorem exec_reqDpWrite (a3 a2 : Bool) (data : Word) :
    exec (.reqDpWrite a3 a2 data) = exec (.dpWrite (registerAddress a3 a2) false data) := rfl

theorem exec_reqApWrite (a3 a2 : Bool) (data : Word) :
    exec (.reqApWrite a3 a2 data) = exec (.dpWrite (registerAddress a3 a2) true data) := rfl

theorem exec_reqDpRead (a3 a2 : Bool) : exec (.reqDpRead a3 a2) = exec (.dpRead (registerAddress a3 a2) false) := rfl

theorem exec_reqApRead (a3 a2 : Bool) : exec (.reqApRead a3 a2) = exec (.dpRead (registerAddress a3 a2) true) := rfl

/-- Settles O18, row by row. -/
theorem requestsAreTransactions : Obligations.RequestsAreTransactions := by
  intro s a3 a2 data
  rw [exec_reqDpWrite, exec_reqApWrite, exec_reqDpRead, exec_reqApRead]
  exact ⟨rfl, rfl, rfl, rfl⟩

/-- The header of a class with address bits 3 and 2 and a parity bit: `10pba` and the low bits of the class (R98). -/
def classHeader (low : BitVec 8) (a3 a2 parity : Bool) : BitVec 8 :=
  low ||| ((BitVec.ofBool a2).setWidth 8 <<< 3) ||| ((BitVec.ofBool a3).setWidth 8 <<< 4)
    ||| ((BitVec.ofBool parity).setWidth 8 <<< 5)

theorem packHeader_eq_classHeader_dpWrite (a3 a2 : Bool) :
    packHeader (registerAddress a3 a2) false false = classHeader 0x81 a3 a2 (a2 ^^ a3) := by
  revert a3 a2; decide

theorem packHeader_eq_classHeader_apWrite (a3 a2 : Bool) :
    packHeader (registerAddress a3 a2) true false = classHeader 0x83 a3 a2 (!(a2 ^^ a3)) := by
  revert a3 a2; decide

theorem packHeader_eq_classHeader_dpRead (a3 a2 : Bool) :
    packHeader (registerAddress a3 a2) false true = classHeader 0x85 a3 a2 (!(a2 ^^ a3)) := by
  revert a3 a2; decide

theorem packHeader_eq_classHeader_apRead (a3 a2 : Bool) :
    packHeader (registerAddress a3 a2) true true = classHeader 0x87 a3 a2 (a2 ^^ a3) := by
  revert a3 a2; decide

section
variable {i j : Instr} {header header' : BitVec 8}

/-! A claim about a transaction speaks of the command through `exec` alone. -/

theorem WriteSucceeds.congr {data : Word} (h : WriteSucceeds j header data) (he : exec i = exec j)
    (hh : header = header') : WriteSucceeds i header' data := by
  subst hh
  unfold WriteSucceeds Completes at h ⊢
  rwa [he]

theorem ReadSucceeds.congr (h : ReadSucceeds j header) (he : exec i = exec j) (hh : header = header') :
    ReadSucceeds i header' := by
  subst hh
  unfold ReadSucceeds Completes at h ⊢
  rwa [he]

theorem AcknowledgeFailures.congr {request : Request} (h : AcknowledgeFailures j header request) (he : exec i = exec j)
    (hh : header = header') : AcknowledgeFailures i header' request := by
  subst hh
  unfold AcknowledgeFailures Completes at h ⊢
  rwa [he]

end

/-- Settles O16: each row is the DP write of its register, with the header of its class. -/
theorem requestWritesSucceed : Obligations.RequestWritesSucceed := fun a3 a2 data =>
  ⟨(dpWrite_writeSucceeds _ _ _).congr (exec_reqDpWrite a3 a2 data) (packHeader_eq_classHeader_dpWrite a3 a2),
    (dpWrite_writeSucceeds _ _ _).congr (exec_reqApWrite a3 a2 data) (packHeader_eq_classHeader_apWrite a3 a2)⟩

/-- Settles O17: each row is the DP read of its register, with the header of its class. -/
theorem requestReadsSucceed : Obligations.RequestReadsSucceed := fun a3 a2 =>
  ⟨(dpRead_readSucceeds _ _).congr (exec_reqDpRead a3 a2) (packHeader_eq_classHeader_dpRead a3 a2),
    (dpRead_readSucceeds _ _).congr (exec_reqApRead a3 a2) (packHeader_eq_classHeader_apRead a3 a2)⟩

/-- Settles O19: each row fails as the transaction of its register does. -/
theorem requestsFail : Obligations.RequestsFail := fun a3 a2 data =>
  ⟨(dpWrite_acknowledgeFailures _ _ _).congr (exec_reqDpWrite a3 a2 data) (packHeader_eq_classHeader_dpWrite a3 a2),
    (dpWrite_acknowledgeFailures _ _ _).congr (exec_reqApWrite a3 a2 data) (packHeader_eq_classHeader_apWrite a3 a2),
    (dpRead_acknowledgeFailures _ _).congr (exec_reqDpRead a3 a2) (packHeader_eq_classHeader_dpRead a3 a2),
    (dpRead_acknowledgeFailures _ _).congr (exec_reqApRead a3 a2) (packHeader_eq_classHeader_apRead a3 a2)⟩

/-! ### Pulses of a transaction (R104, R183) -/

/-- The pulses of one DP transaction: some WAITs, then an attempt with a data phase or a short one. -/
def AttemptPulses (n : Nat) : Prop :=
  ∃ k, k < Config.params.waitAttempts ∧ (n = 21 * k + 54 ∨ n = 21 * (k + 1))

theorem AckFailure.attemptPulses {ls : List Bool} {e : ErrorKind} {n : Nat} (h : AckFailure ls e n) :
    AttemptPulses n := by
  cases h with
  | fault k hk => exact ⟨k, hk, .inr rfl⟩
  | invalid k _ hk _ => exact ⟨k, hk, .inr rfl⟩
  | timeout => exact ⟨9, by decide, .inr rfl⟩

theorem ReadFailure.attemptPulses {ls : List Bool} {e : ErrorKind} {n : Nat} (h : ReadFailure ls e n) :
    AttemptPulses n := by
  cases h with
  | ack _ _ _ ha => exact ha.attemptPulses
  | parity k _ hk => exact ⟨k, hk, .inl rfl⟩

theorem dpWrite_attemptPulses (addr : Word) (apndp : Bool) (data : Word) (s : State) :
    AttemptPulses (pulsesSince s (dpWrite Config.params addr apndp data s).2) := by
  obtain ⟨k, hk, h⟩ | ⟨ls, e, n, ha, h⟩ := write_answers s
  · obtain ⟨u, hu, hd⟩ := dpWrite_succeeds addr apndp data k hk s h
    rw [hu, hd.wire.pulsesSince]
    exact ⟨k, hk, .inl rfl⟩
  · obtain ⟨f, u, hu, -, hd⟩ := dpWrite_fails addr apndp data ls e n ha s h
    rw [hu, hd.wire.pulsesSince]
    exact ha.attemptPulses

theorem dpRead_attemptPulses (addr : Word) (apndp : Bool) (s : State) :
    AttemptPulses (pulsesSince s (dpRead Config.params addr apndp s).2) := by
  obtain ⟨k, w, hk, h⟩ | ⟨ls, e, n, ha, h⟩ := read_answers s
  · obtain ⟨u, hu, hd⟩ := dpRead_succeeds addr apndp k hk w s h
    rw [hu, hd.wire.pulsesSince]
    exact ⟨k, hk, .inl rfl⟩
  · obtain ⟨f, u, hu, -, hd⟩ := dpRead_fails addr apndp ls e n ha s h
    rw [hu, hd.wire.pulsesSince]
    exact ha.attemptPulses

/-- Presenting a result makes no pulse. -/
theorem finishWord_pulsesSince {r : Run Word} {s t : State} (h : finishWord r = .next t) :
    pulsesSince s t = pulsesSince s r.2 := by
  obtain ⟨_ | _, u⟩ := r <;> cases h <;> rfl

theorem exec_dpWrite_attemptPulses {addr : Word} {apndp : Bool} {data : Word} {s t : State}
    (he : exec (.dpWrite addr apndp data) s = .next t) : AttemptPulses (pulsesSince s t) := by
  rw [finishDone_pulsesSince (requirePins_next he).2]
  exact dpWrite_attemptPulses addr apndp data s

theorem exec_dpRead_attemptPulses {addr : Word} {apndp : Bool} {s t : State}
    (he : exec (.dpRead addr apndp) s = .next t) : AttemptPulses (pulsesSince s t) := by
  rw [finishWord_pulsesSince (requirePins_next he).2]
  exact dpRead_attemptPulses addr apndp s

/-- Settles O23: a command of the six is a DP write or a DP read, whose answers decide the pulses. -/
theorem transactionPulseBounds : Obligations.TransactionPulseBounds := by
  intro i s t hi he
  cases i
  case dpWrite addr apndp data => exact exec_dpWrite_attemptPulses he
  case dpRead addr apndp => exact exec_dpRead_attemptPulses he
  case reqDpWrite a3 a2 data =>
    rw [exec_reqDpWrite] at he
    exact exec_dpWrite_attemptPulses he
  case reqDpRead a3 a2 =>
    rw [exec_reqDpRead] at he
    exact exec_dpRead_attemptPulses he
  case reqApWrite a3 a2 data =>
    rw [exec_reqApWrite] at he
    exact exec_dpWrite_attemptPulses he
  case reqApRead a3 a2 =>
    rw [exec_reqApRead] at he
    exact exec_dpRead_attemptPulses he
  all_goals exact hi.elim

/-! ### The pseudo-operations (R94) -/

/-- A continued run that succeeded: both parts did. -/
theorem andThen_ok {α β : Type} {r : Run α} {f : α → State → Run β} {b : β} {u : State}
    (h : andThen r f = (.ok b, u)) : ∃ a s, r = (.ok a, s) ∧ f a s = (.ok b, u) := by
  obtain ⟨e | a, s⟩ := r
  · cases h
  · exact ⟨a, s, rfl, h⟩

/-- A load that succeeded read as many words as it was asked for (R233). -/
theorem length_of_loadWords {n : Nat} {a : Word} {s u : State} {ws : List Word}
    (h : loadWords Config.params n a s = (.ok ws, u)) : ws.length = n := by
  induction n generalizing a s ws u with
  | zero => cases h; rfl
  | succ n ih =>
    obtain ⟨w, s1, -, h⟩ := andThen_ok h
    obtain ⟨vs, s2, hload, h⟩ := andThen_ok h
    cases h
    rw [List.length_cons, ih hload]

theorem length_of_memoryLoad {a : Word} {n : Nat} {s u : State} {ws : List Word}
    (h : memoryLoad Config.params a n s = (.ok ws, u)) : ws.length = n := by
  obtain ⟨-, s1, -, hload⟩ := andThen_ok h
  exact length_of_loadWords hload

/-- A load leaves the host's buffer alone; only the presentation fills it (R233). -/
theorem memoryLoad_loadBuffer {a : Word} {n : Nat} {s u : State} {x : Except ErrorKind (List Word)}
    (h : memoryLoad Config.params a n s = (x, u)) : u.loadBuffer = s.loadBuffer := by
  obtain ⟨⟨m, p, ds, b, hd, -⟩, -⟩ := ended_memoryLoad a n s
  rw [h] at hd
  exact hd.wire.loadBuffer

theorem exec_memLoad {s : State} (hp : s.pinsReady = true) (address : Word) :
    exec (.memLoad address) s
      = finishWord (andThen (memoryLoad Config.params address 1 s) fun ws u => (.ok (ws.headD 0), u)) := if_pos hp

theorem exec_memLoadN {s : State} (hp : s.pinsReady = true) (address count : Word) :
    exec (.memLoadN address count) s
      = finishBuffer count.toNat (memoryLoad Config.params address count.toNat s) := if_pos hp

/-- MEM_LOAD and MEM_LOAD_N of one word make the same load; they present it in the result and in the buffer (R231). -/
theorem memLoad_expands (s : State) (address : Word) (hp : s.pinsReady = true) : ∃ t u : State,
    exec (.memLoad address) s = .next t ∧ exec (.memLoadN address 1) s = .next u ∧
    t.result.ok = u.result.ok ∧ t.result.err = u.result.err ∧
    (t.result.ok = true → u.loadBuffer = [t.result.rdata]) ∧
    t = { u with result := t.result, loadBuffer := s.loadBuffer, freeCount := t.freeCount } := by
  have hone : (1 : Word).toNat = 1 := rfl
  rw [exec_memLoad hp, exec_memLoadN hp, hone]
  rcases hload : memoryLoad Config.params address 1 s with ⟨e | ws, u⟩
  · refine ⟨presentFail e u, presentFail e (spoilBuffer 1 u), rfl, rfl, rfl, rfl, fun hok => (by cases hok), ?_⟩
    rw [← memoryLoad_loadBuffer hload]
    rfl
  · obtain ⟨w, rfl⟩ := List.length_eq_one_iff.mp (length_of_memoryLoad hload)
    refine ⟨presentWord w u, presentDone (fillBuffer [w] u), rfl, rfl, rfl, rfl, fun _ => rfl, ?_⟩
    rw [← memoryLoad_loadBuffer hload]
    rfl

/-- A run of attempts, or of none, presents nothing. -/
theorem EndedOrIdle.unpresented {α : Type} {K : ErrorKind → Prop} {s : State} {r : Run α} (h : EndedOrIdle K s r) :
    r.2.pinsReady = s.pinsReady ∧ r.2.result = s.result ∧ r.2.freeCount = s.freeCount := by
  obtain ⟨⟨m, p, ds, b, hd, -⟩, -⟩ | ⟨hs, -⟩ := h
  · exact ⟨hd.wire.pinsReady, hd.wire.result, hd.wire.freeCount⟩
  · rw [hs]
    exact ⟨rfl, rfl, rfl⟩

/-- An AP_SELECT that succeeded: its guards passed, and without its presentation its state is what the selector left. -/
theorem apSelect_succeeded {s t : State} {port : BitVec 8} {addr : Word} (he : exec (.apSelect port addr) s = .next t)
    (hok : t.result.ok = true) :
    s.pinsReady = true ∧ portLegal Config.params port = true ∧
      ∃ u, selectAccessPort Config.params port addr s = (.ok (), u) ∧ u.pinsReady = true ∧
        { t with result := s.result, freeCount := s.freeCount } = u := by
  obtain ⟨hp, h⟩ := requirePins_next he
  obtain ⟨hl, h⟩ := requireLegal_next h
  obtain ⟨hpins, hresult, hcount⟩ := (ended_select port addr s).unpresented
  rcases hsel : selectAccessPort Config.params port addr s with ⟨_ | _, u⟩ <;> rw [hsel] at h hpins hresult hcount <;>
    cases h
  · cases hok
  · refine ⟨hp, hl, u, rfl, hpins.trans hp, ?_⟩
    rw [← hresult, ← hcount]
    rfl

/-- After a select that succeeded the accesses are the DP transactions of the register in its bank (R203, R204). -/
theorem access_expands (s t : State) (port : BitVec 8) (addr data : Word) (he : exec (.apSelect port addr) s = .next t)
    (hok : t.result.ok = true) :
    exec (.apWrite port addr data) s =
      exec (.dpWrite (addr &&& 0xF) true data) { t with result := s.result, freeCount := s.freeCount } ∧
    exec (.apRead port addr) s =
      exec (.dpRead (addr &&& 0xF) true) { t with result := s.result, freeCount := s.freeCount } := by
  obtain ⟨hp, hl, u, hsel, hu, heq⟩ := apSelect_succeeded he hok
  have hwrite : exec (.apWrite port addr data) s = finishDone (apWrite Config.params port addr data s) :=
    (if_pos hp).trans (if_pos hl)
  have hread : exec (.apRead port addr) s = finishWord (apRead Config.params port addr s) :=
    (if_pos hp).trans (if_pos hl)
  rw [heq, hwrite, hread, exec_dpWrite hu, exec_dpRead hu, apWrite, apRead, hsel]
  exact ⟨rfl, rfl⟩

/-- Settles O31: a store of one word has a legal buffer; the load and the accesses by the lemmas above. -/
theorem pseudoOperationsExpand : Obligations.PseudoOperationsExpand :=
  ⟨fun _ _ _ => rfl, memLoad_expands, access_expands⟩

/-! ### The bring-up sequence (R105) -/

/-- Settles O44, by the laws of step 2 of INITIALIZE: its wire activity, the bits, and the pins after it. -/
theorem bringupSends : Obligations.BringupSends := by
  intro s hp
  have hw := wire_linkStep2 s
  have hsame : SameButWire s (presentDone (linkStep2 Config.params s)) := hw.sameButWire (linkStep2_selcache s) rfl
  exact ⟨presentDone (linkStep2 Config.params s), if_pos hp, ⟨rfl, rfl⟩, hsame, hw.target,
    hw.errors.trans (List.append_nil _), linkStep2_dioMode s, linkStep2_dioLatch s, linkStep2_clkLevel s, hw.pulsesSince,
    bitsSince_linkStep2 s⟩

/-! ### Illegal operands (R93) -/

/-- With the pins configured an illegal operand is refused by its name. -/
theorem refused_of_illegal {s : State} {legal : Bool} {r : Refusal} {k : Host.Outcome State Fault Refusal}
    (hp : s.pinsReady = true) (hl : legal = false) : requirePins s (requireLegal legal r k) = .refused r := by
  simp [requirePins, requireLegal, hp, hl]

/-- Settles O56: level 3 encodes no level, and every other illegal operand is caught by its command's guard. -/
theorem illegalOperandsRefused : Obligations.IllegalOperandsRefused := by
  refine ⟨fun s clk dio => ⟨rfl, rfl⟩, fun s hp => ⟨fun v n hn => ?_, fun port addr data hport => ?_,
    fun address count buffer hb => refused_of_illegal hp (decide_eq_false hb)⟩⟩
  · have hl : bitCountLegal n = false := decide_eq_false (Nat.not_le.mpr hn)
    exact ⟨refused_of_illegal hp hl, refused_of_illegal hp hl⟩
  · have hl : portLegal Config.params port = false := decide_eq_false (Nat.not_lt.mpr hport)
    exact ⟨refused_of_illegal hp hl, refused_of_illegal hp hl, refused_of_illegal hp hl⟩

end Sys2Proof.Machine

/-! PROOFS. The statements of 40_wire_layer.md: what the four wire primitives do on the lines, what an observer sees of
them, and their frames. -/

namespace Sys2Proof.Machine

/-! ### The guards pass: a legal wire command runs its primitive (R133, R140, R302) -/

section
variable {s : State} (hp : s.pinsReady = true)
include hp

theorem exec_writeBits (v : Word) {n : BitVec 6} (hn : n.toNat ≤ 32) :
    exec (.writeBits v n) s = .next (presentDone (writeBits v n.toNat s)) :=
  (if_pos hp).trans (if_pos (decide_eq_true hn))

theorem exec_readBits {n : BitVec 6} (hn : n.toNat ≤ 32) :
    exec (.readBits n) s = .next (presentWord (readValue n.toNat s) (readBits n.toNat s)) :=
  (if_pos hp).trans (if_pos (decide_eq_true hn))

theorem exec_readTurnaround : exec .readTurnaround s = .next (presentDone (readTurnaround s)) := if_pos hp

theorem exec_writeTurnaround : exec .writeTurnaround s = .next (presentDone (writeTurnaround s)) := if_pos hp

end

/-- Wire activity without a failure leaves the error-level diagnostics alone. -/
theorem Wire.errorEvents {s t : State} {used pulses : Nat} (h : Wire s t used pulses []) :
    t.errorEvents = s.errorEvents :=
  h.errors.trans (List.append_nil _)

/-! ### Bits put on the line (R134) -/

section
variable (v : Word) (n : Nat) (s : State)

/-- A run of bits leaves the clock resting high; no bit leaves it as it was (R131, D18). -/
theorem writeBits_clkLevel_eq_ite : (writeBits v n s).clkLevel = if n = 0 then s.clkLevel else true := by
  rw [writeBits_clkLevel, isEmpty_lsbBits]
  by_cases h : n = 0 <;> simp [h]

theorem writeBits_gpio_eq_range : (writeBits v n s).gpio = s.gpio ++ (List.range n).flatMap fun i =>
    [.setLevel .dio s.dioPin (v.getLsbD i), .setLevel .clk s.clkPin false, .setLevel .clk s.clkPin true] := by
  rw [writeBits_gpio, lsbBits, List.flatMap_map]
  rfl

theorem bitsSince_writeBits_eq_range : bitsSince s (writeBits v n s)
    = (List.range n).map fun i => if s.dioMode = .outPP then some (v.getLsbD i) else none := by
  rw [bitsSince_writeBits, lsbBits, List.map_map]
  rfl

end

/-- Settles O10: the guards pass, and each clause is a fact about `writeBits`. -/
theorem writeBitsDrives : Obligations.WriteBitsDrives := by
  intro s v n hp hn
  have hw := wire_writeBits v n.toNat s
  exact ⟨presentDone (writeBits v n.toNat s), exec_writeBits hp v hn, ⟨rfl, rfl⟩, hw.sameButWire rfl rfl, rfl,
    hw.errorEvents, writeBits_gpio_eq_range v n.toNat s, rfl, getLastD_lsbBits v n.toNat s.dioLatch,
    writeBits_clkLevel_eq_ite v n.toNat s, hw.pulsesSince, bitsSince_writeBits_eq_range v n.toNat s⟩

/-! ### Bits sampled from the line (R135) -/

section
variable {s : State}

theorem lineLevel_released (hm : s.dioMode = .inPU) (drive : Option Bool) : s.lineLevel drive = drive.getD true := by
  rw [State.lineLevel, hm]

theorem lineLevel_driving (hm : s.dioMode = .outPP) (drive : Option Bool) : s.lineLevel drive = s.dioLatch := by
  rw [State.lineLevel, hm]

/-- Only samples of a released line use up answers (R45). -/
theorem readBits_targetScript_released (hm : s.dioMode = .inPU) (n : Nat) :
    (readBits n s).targetScript = s.targetScript.drop n := by
  rw [readBits_targetScript, if_pos hm]

theorem readBits_targetScript_driving (hm : s.dioMode = .outPP) (n : Nat) :
    (readBits n s).targetScript = s.targetScript := by
  rw [readBits_targetScript, hm, if_neg (by decide)]

end

section
variable (n : Nat) (s : State)

/-- Sample `i` reads the line's level while the target drives its `i`-th answer (R44, R45). -/
theorem sampledLevels_eq_range :
    sampledLevels n s = (List.range n).map fun i => s.lineLevel (s.targetScript.getD i none) := by
  cases hm : s.dioMode with
  | inPU => simp [sampledLevels, lineLevel_released hm, hm, targetLevels_eq_map]
  | outPP => simp [sampledLevels, lineLevel_driving hm, hm]

/-- A run of samples leaves the clock resting high; no sample leaves it as it was (R131, D18). -/
theorem readBits_clkLevel_eq_ite : (readBits n s).clkLevel = if n = 0 then s.clkLevel else true := by
  rw [readBits_clkLevel]
  by_cases h : n = 0 <;> simp [h, Nat.pos_iff_ne_zero]

theorem readBits_gpio_eq_range : (readBits n s).gpio = s.gpio ++ (List.range n).flatMap fun i =>
    [.readLevel .dio s.dioPin (s.lineLevel (s.targetScript.getD i none)), .setLevel .clk s.clkPin false,
      .setLevel .clk s.clkPin true] := by
  rw [readBits_gpio, sampledLevels_eq_range, List.flatMap_map]
  rfl

/-- One pulse per sample, whoever drives the line. -/
theorem pulsesSince_readBits : pulsesSince s (readBits n s) = n := by
  rw [pulsesSince, actionsSince, readBits_gpio, List.drop_left, pulseCount_readBits, length_sampledLevels]

/-- Bit `i` of the word is sample `i`, and 0 from the count up. -/
theorem getLsbD_readValue (hn : n ≤ 32) (i : Nat) : (readValue n s).getLsbD i
    = (decide (i < n) && s.lineLevel (s.targetScript.getD i none)) := by
  rw [readValue, getLsbD_wordOfBits, sampledLevels_eq_range]
  by_cases hi : i < n
  · have hi32 : i < 32 := by omega
    simp [List.getD, hi, hi32]
  · simp [List.getD, hi]

end

/-- A command without transactions that is not SET_VERBOSITY leaves everything but the wire alone. -/
theorem Plain.sameButWire {i : Instr} {s t : State} (h : Plain i s t) (hv : ∀ l, i ≠ .setVerbosity l) :
    SameButWire s t :=
  { clkPin := h.clkPin, dioPin := h.dioPin, verbosity := h.verbosity hv, linkReady := h.linkReady
    pinsReady := h.pinsReady, hostScript := h.hostScript, selcache := h.selcache, loadBuffer := h.loadBuffer }

/-- Settles O11: what every READ_BITS does, where the level of a released line is the target's. -/
theorem readBitsSamples : Obligations.ReadBitsSamples := by
  intro s n hp hn hm
  have hplain := plain_readBits n.toNat s n (readValue n.toNat s)
  have hword := getLsbD_readValue n.toNat s hn
  have hgpio := readBits_gpio_eq_range n.toNat s
  simp only [lineLevel_released hm] at hword hgpio
  exact ⟨presentWord (readValue n.toNat s) (readBits n.toNat s), exec_readBits hp hn, hplain.succeeded,
    hplain.sameButWire nofun, hplain.errors, hword, readBits_targetScript_released hm n.toNat, hgpio, rfl, rfl,
    readBits_clkLevel_eq_ite n.toNat s, pulsesSince_readBits n.toNat s⟩

/-- Settles O12: what every READ_BITS does, where the level of a driven line is the latch. -/
theorem readBitsWhileDriving : Obligations.ReadBitsWhileDriving := by
  intro s n hp hn hm
  have hplain := plain_readBits n.toNat s n (readValue n.toNat s)
  have hword := getLsbD_readValue n.toNat s hn
  simp only [lineLevel_driving hm] at hword
  exact ⟨presentWord (readValue n.toNat s) (readBits n.toNat s), exec_readBits hp hn, hplain.succeeded,
    hplain.sameButWire nofun, hword, readBits_targetScript_driving hm n.toNat, rfl, rfl,
    pulsesSince_readBits n.toNat s⟩

/-! ### The turnarounds (R136, R137) -/

/-- Settles O13: each turnaround is one pulse of wire activity, of which the observer's law says what is driven. -/
theorem turnaroundsHandOver : Obligations.TurnaroundsHandOver := by
  intro s hp
  have hr := wire_readTurnaround s
  have hw := wire_writeTurnaround s
  constructor
  · exact ⟨presentDone (readTurnaround s), exec_readTurnaround hp, ⟨rfl, rfl⟩, hr.sameButWire rfl rfl, rfl,
      hr.errorEvents, rfl, rfl, rfl, rfl, hr.pulsesSince, bitsSince_readTurnaround s⟩
  · exact ⟨presentDone (writeTurnaround s), exec_writeTurnaround hp, ⟨rfl, rfl⟩, hw.sameButWire rfl rfl, rfl,
      hw.errorEvents, rfl, rfl, rfl, rfl, hw.pulsesSince, bitsSince_writeTurnaround s⟩

end Sys2Proof.Machine

/-! PROOFS. The statements of 41_dp_transaction.md: the drain that ends every command with a transaction, the reports after
it, the parity, the header byte, DP_WRITE and DP_READ answered in every way, and that every legal command ends. -/

namespace Sys2Proof.Machine

/-! ### The drain and the reports after it (R74, R166, R262) -/

/-- `t` ends with complete attempts, wherever after `s` these began: the line is framed, the drain made the last actions,
and a report comes after it. -/
structure Drained (s t : State) : Prop where
  framed : t.Framed
  idle : ∃ es, t.gpio = s.gpio ++ es ++ idleActions t
  late : ReportsLast s t

section
variable {s u t : State}

theorem Done.drained {used pulses : Nat} {errs : List Diag} {bits : List (Option Bool)}
    (h : Done s t used pulses errs bits) : Drained s t :=
  ⟨h.framed, h.idle, h.late⟩

/-- The presentation of a result touches neither the lines nor the sink (R41). -/
theorem Drained.presented (h : Drained s u)
    (ht : t = { u with result := t.result, freeCount := t.freeCount, loadBuffer := t.loadBuffer }) : Drained s t := by
  rw [ht]
  exact ⟨h.framed, h.idle, h.late.congr rfl rfl⟩

theorem Drained.markReady (h : Drained s u) : Drained s (markReady u) :=
  ⟨h.framed, h.idle, h.late.congr rfl rfl⟩

/-- The first two steps of INITIALIZE report no error (R221, R222). -/
theorem Begun.drained {clk dio : PinId} {l : Level} (hb : Begun s u clk dio l) (h : Drained u t) : Drained s t where
  framed := h.framed
  idle := by
    obtain ⟨fs, hfs, -⟩ := hb.gpio
    obtain ⟨es, hes⟩ := h.idle
    exact ⟨fs ++ es, by rw [hes, hfs, List.append_assoc s.gpio]⟩
  late := h.late.after hb.diag hb.errors

theorem linkInit_drained {clk dio : PinId} {v : BitVec 2} (he : exec (.linkInit clk dio v) s = .next t) :
    Drained s t := by
  obtain ⟨l, s2, u, m, p, ds, b, -, hb, hd, hend⟩ := exec_linkInit clk dio v s t he
  have hu : Drained s u := hb.drained hd.drained
  obtain ⟨rfl, -⟩ | ⟨f, rfl, -⟩ := hend
  · exact hu.markReady.presented rfl
  · exact hu.presented rfl

end

/-- Settles O25: INITIALIZE by its steps, and every other command with a transaction by its complete attempts. -/
theorem everyPathDrains : Obligations.EveryPathDrains := by
  intro i s t hm he
  have h : Drained s t := by
    by_cases hi : ∃ clk dio v, i = .linkInit clk dio v
    · obtain ⟨clk, dio, v, rfl⟩ := hi
      exact linkInit_drained he
    · obtain ⟨u, m, p, ds, b, hd, hc⟩ := (exec_transacted i s t hm (fun clk dio v h => hi ⟨clk, dio, v, h⟩) he).law
      exact hd.drained.presented hc.same
  exact ⟨h.framed, h.idle⟩

/-- A command drains after its attempts, or makes none (AP_SELECT on a cache hit among the latter, R201). -/
theorem exec_drained_or_plain {i : Instr} {s t : State} (he : exec i s = .next t) : Drained s t ∨ Plain i s t := by
  by_cases hi : ∃ clk dio v, i = .linkInit clk dio v
  · obtain ⟨clk, dio, v, rfl⟩ := hi
    exact .inl (linkInit_drained he)
  · obtain ⟨u, m, p, ds, b, K, hd, hc⟩ | h := exec_cases (fun clk dio v h => hi ⟨clk, dio, v, h⟩) he
    · exact .inl (hd.drained.presented hc.same)
    · exact .inr h

/-- Settles O54: attempts end with the drain and report after it; a command without attempts succeeds and reports nothing. -/
theorem reportsAfterDrain : Obligations.ReportsAfterDrain := by
  intro i s t he
  obtain h | h := exec_drained_or_plain he
  · exact ⟨h.late, fun _ => h.idle⟩
  · obtain ⟨hok, -⟩ := h.succeeded
    exact ⟨.quiet h.diag h.errors, fun hfail => absurd (hok.symm.trans hfail) Bool.noConfusion⟩

/-! ### DP_WRITE and DP_READ, answered OK and otherwise (R168 to R178) -/

/-- Settles O14: the law of a DP write answered OK. -/
theorem dpWriteSucceeds : Obligations.DpWriteSucceeds := dpWrite_writeSucceeds

/-- Settles O15: the law of a DP read answered OK with consistent parity. -/
theorem dpReadSucceeds : Obligations.DpReadSucceeds := dpRead_readSucceeds

/-- Settles O20: the law of a DP write that fails by its acknowledge. -/
theorem dpWriteFails : Obligations.DpWriteFails := dpWrite_acknowledgeFailures

/-- Settles O21: the law of a DP read that fails by its acknowledge. -/
theorem dpReadFails : Obligations.DpReadFails := dpRead_acknowledgeFailures

/-! ### A read answered OK, whatever its parity bit (R174) -/

/-- The state `k` attempts of a read answered WAIT leave (R170). -/
def waited (addr : Word) (apndp : Bool) : Nat → State → State
  | 0, s => s
  | k + 1, s => waited addr apndp k (drain Config.params (answered addr apndp true s))

/-- The state the attempts of a read answered WAIT `k` times and then OK leave: the line taken back and the drain made,
the parity not yet compared (R174). -/
def attemptsEnd (addr : Word) (apndp : Bool) (k : Nat) (s : State) : State :=
  drain Config.params (writeTurnaround (dataRead addr apndp (waited addr apndp k s)))

/-- The same of the whole read, from its trace event on. -/
def readEnd (addr : Word) (apndp : Bool) (k : Nat) (s : State) : State :=
  attemptsEnd addr apndp k (log .trace (.transaction ⟨addr, apndp, .read⟩) s)

/-- The parity bit decides what the attempts report, and nothing before it. -/
theorem dpReadLoop_eq_attemptsEnd (addr : Word) (apndp : Bool) {b k : Nat} (hk : k < b) {s : State} {w : Word} {p : Bool}
    (h : s.shows (readAnswerWith k w p)) :
    dpReadLoop Config.params addr apndp b s
      = if p = evenParity w then (.ok w, attemptsEnd addr apndp k s)
        else raise (.parityError addr apndp) (attemptsEnd addr apndp k s) := by
  induction k generalizing b s with
  | zero =>
    obtain ⟨b, rfl⟩ : ∃ b', b = b' + 1 := ⟨b - 1, by omega⟩
    exact dpReadLoop_ok addr apndp b s w p (by simpa [State.shows, readAnswerWith] using h)
  | succ k ih =>
    obtain ⟨b, rfl⟩ : ∃ b', b = b' + 1 := ⟨b - 1, by omega⟩
    have happ : readAnswerWith (k + 1) w p = ackLevels Config.params.ackWait ++ readAnswerWith k w p := by
      simp [readAnswerWith, waitLevels_succ]
    obtain ⟨hwait, hrest⟩ := (shows_ack_append _ _ _).mp (happ ▸ h)
    exact (dpReadLoop_wait addr apndp b s hwait).trans (ih (by omega) hrest)

theorem done_attemptsEnd (addr : Word) (apndp : Bool) (k : Nat) (s : State) :
    Done s (attemptsEnd addr apndp k s) (3 * k + 36) (transactionPulses k) []
      (readTransaction (packHeader addr apndp true) k) := by
  induction k generalizing s with
  | zero => exact done_read addr apndp s
  | succ k ih =>
    have h := (done_short addr apndp true s).trans (ih _)
    have hused : 3 + (3 * k + 36) = 3 * (k + 1) + 36 := by omega
    have hpulses : 21 + transactionPulses k = transactionPulses (k + 1) := by simp only [transactionPulses]; omega
    have hbits : shortAttempt (packHeader addr apndp true) ++ readTransaction (packHeader addr apndp true) k
        = readTransaction (packHeader addr apndp true) (k + 1) := by
      simp [readTransaction, shortAttempts, List.replicate_succ]
    rw [hused, hpulses, hbits] at h
    exact h

theorem done_readEnd (addr : Word) (apndp : Bool) (k : Nat) (s : State) :
    Done s (readEnd addr apndp k s) (3 * k + 36) (transactionPulses k) []
      (readTransaction (packHeader addr apndp true) k) :=
  (done_attemptsEnd addr apndp k _).after_log

/-- Its last actions: the taking of the line, then the drain. -/
theorem readEnd_gpio (addr : Word) (apndp : Bool) (k : Nat) (s : State) :
    ∃ es, (readEnd addr apndp k s).gpio = es ++ [.setMode .dio s.dioPin .outPP] ++ idleActions s := by
  have hw := (done_readEnd addr apndp k s).wire
  let v := dataRead addr apndp (waited addr apndp k (log .trace (.transaction ⟨addr, apndp, .read⟩) s))
  have hpin : v.dioPin = s.dioPin := hw.dioPin
  have hgpio : (readEnd addr apndp k s).gpio = (writeTurnaround v).gpio ++ idleActions (readEnd addr apndp k s) :=
    gpio_drain _
  refine ⟨v.gpio ++ pulseActions v, ?_⟩
  rw [hgpio, idleActions_congr s _ hw.clkPin hw.dioPin, writeTurnaround_gpio, hpin, ← List.append_assoc v.gpio]

theorem dpRead_eq_readEnd (addr : Word) (apndp : Bool) {k : Nat} (hk : k < Config.params.waitAttempts) {s : State}
    {w : Word} {p : Bool} (h : s.shows (readAnswerWith k w p)) :
    dpRead Config.params addr apndp s = if p = evenParity w then (.ok w, readEnd addr apndp k s)
      else raise (.parityError addr apndp) (readEnd addr apndp k s) :=
  dpReadLoop_eq_attemptsEnd addr apndp (s := log .trace (.transaction ⟨addr, apndp, .read⟩) s) hk h

theorem exec_dpRead_ok (addr : Word) (apndp : Bool) {k : Nat} {s : State} {w : Word} (hp : s.pinsReady = true)
    (hk : k < Config.params.waitAttempts) (h : s.shows (readAnswer k w)) :
    exec (.dpRead addr apndp) s = .next (presentWord w (readEnd addr apndp k s)) := by
  rw [exec_dpRead hp, dpRead_eq_readEnd addr apndp hk h, if_pos rfl]
  rfl

theorem exec_dpRead_parityError (addr : Word) (apndp : Bool) {k : Nat} {s : State} {w : Word}
    (hp : s.pinsReady = true) (hk : k < Config.params.waitAttempts)
    (h : s.shows (readAnswerWith k w (!evenParity w))) :
    exec (.dpRead addr apndp) s
      = .next (presentFail .parityError (log .error (.failure (.parityError addr apndp)) (readEnd addr apndp k s))) := by
  rw [exec_dpRead hp, dpRead_eq_readEnd addr apndp hk h, if_neg (Bool.not_ne_self _)]
  rfl

/-! ### The same driving actions whatever the target answers (R174) -/

/-- The two states have the same pins identified and the same driving actions made; what their samples read may differ. -/
structure DrivenAlike (s u : State) : Prop where
  clkPin : s.clkPin = u.clkPin
  dioPin : s.dioPin = u.dioPin
  driven : s.gpio.filter isDriving = u.gpio.filter isDriving

section
variable {s u : State}

theorem DrivenAlike.pulseActions (h : DrivenAlike s u) : pulseActions s = pulseActions u := by
  rw [Machine.pulseActions, Machine.pulseActions, h.clkPin]

theorem DrivenAlike.log (h : DrivenAlike s u) (l : Level) (e : DiagEvent) : DrivenAlike (log l e s) (log l e u) :=
  ⟨h.clkPin, h.dioPin, h.driven⟩

theorem DrivenAlike.writeBits (h : DrivenAlike s u) (v : Word) (n : Nat) :
    DrivenAlike (writeBits v n s) (writeBits v n u) where
  clkPin := h.clkPin
  dioPin := h.dioPin
  driven := by
    have hbit : writeBitActions s = writeBitActions u := by
      funext b
      rw [writeBitActions, writeBitActions, h.dioPin, h.pulseActions]
    simp only [writeBits_gpio, List.filter_append, h.driven, hbit]

/-- The driving actions of samples are their pulses. -/
theorem filter_readBitActions (s : State) (ls : List Bool) :
    (ls.flatMap (readBitActions s)).filter isDriving = (List.replicate ls.length (pulseActions s)).flatten := by
  induction ls with
  | nil => rfl
  | cons b ls ih =>
    rw [List.flatMap_cons, List.filter_append, ih]
    rfl

theorem DrivenAlike.readBits (h : DrivenAlike s u) (n : Nat) : DrivenAlike (readBits n s) (readBits n u) where
  clkPin := h.clkPin
  dioPin := h.dioPin
  driven := by
    simp only [readBits_gpio, List.filter_append, filter_readBitActions, length_sampledLevels, h.driven,
      h.pulseActions]

theorem DrivenAlike.readTurnaround (h : DrivenAlike s u) : DrivenAlike (readTurnaround s) (readTurnaround u) where
  clkPin := h.clkPin
  dioPin := h.dioPin
  driven := by
    simp only [readTurnaround_gpio, List.filter_append, h.driven, h.dioPin, h.pulseActions]

theorem DrivenAlike.writeTurnaround (h : DrivenAlike s u) : DrivenAlike (writeTurnaround s) (writeTurnaround u) where
  clkPin := h.clkPin
  dioPin := h.dioPin
  driven := by
    simp only [writeTurnaround_gpio, List.filter_append, h.driven, h.dioPin, h.pulseActions]

theorem DrivenAlike.acked (h : DrivenAlike s u) (addr : Word) (apndp rnw : Bool) :
    DrivenAlike (acked addr apndp rnw s) (acked addr apndp rnw u) :=
  (h.writeBits _ _).readTurnaround.readBits 3

theorem DrivenAlike.waited (h : DrivenAlike s u) (addr : Word) (apndp : Bool) (k : Nat) :
    DrivenAlike (waited addr apndp k s) (waited addr apndp k u) := by
  induction k generalizing s u with
  | zero => exact h
  | succ k ih => exact ih ((h.acked addr apndp true).writeTurnaround.writeBits 0 8)

theorem DrivenAlike.readEnd (h : DrivenAlike s u) (addr : Word) (apndp : Bool) (k : Nat) :
    DrivenAlike (readEnd addr apndp k s) (readEnd addr apndp k u) :=
  (((((h.log _ _).waited addr apndp k).acked addr apndp true).readBits 32).readBits 1).writeTurnaround.writeBits 0 8

end

/-- From states alike with the same actions so far, the driving actions since are the same. -/
theorem DrivenAlike.actionsSince {s t u : State} (h : DrivenAlike t u) (ht : s.gpio <+: t.gpio)
    (hu : s.gpio <+: u.gpio) :
    (actionsSince s t).filter isDriving = (actionsSince s u).filter isDriving := by
  obtain ⟨a, ha⟩ := ht
  obtain ⟨b, hb⟩ := hu
  have hdriven := h.driven
  rw [← ha, ← hb, List.filter_append, List.filter_append] at hdriven
  rw [Machine.actionsSince, Machine.actionsSince, ← ha, ← hb, List.drop_left, List.drop_left]
  exact List.append_cancel_left hdriven

/-- Settles O22: both reads make the attempts of `readEnd`, driven alike; the parity bit decides only what is reported and
presented after them. -/
theorem parityFailureSameWire : Obligations.ParityFailureSameWire := by
  intro s addr apndp k w rest hp hk
  let good : State := { s with targetScript := (readAnswer k w).map some ++ rest }
  let bad : State := { s with targetScript := (readAnswerWith k w (!evenParity w)).map some ++ rest }
  have hok := exec_dpRead_ok addr apndp (s := good) hp hk (shows_of_script _ _ rest rfl)
  have hfail := exec_dpRead_parityError addr apndp (s := bad) hp hk (shows_of_script _ _ rest rfl)
  have hgood := done_readEnd addr apndp k good
  have hbad := (done_readEnd addr apndp k bad).raised (.failure (.parityError addr apndp))
  have hstart : DrivenAlike good bad := ⟨rfl, rfl, rfl⟩
  have hend := hstart.readEnd addr apndp k
  exact ⟨_, _, hok, hfail, ⟨rfl, rfl⟩, rfl, hgood.wire.errorEvents, ⟨rfl, rfl⟩, hbad.wire.errors,
    hend.actionsSince hgood.wire.gpio hbad.wire.gpio, hgood.wire.pulsesSince, hbad.wire.pulsesSince,
    hgood.wire.target.trans (List.drop_left' (by simp)), hbad.wire.target.trans (List.drop_left' (by simp)),
    readEnd_gpio addr apndp k bad, hbad.late⟩

/-! ### The header byte (R162) -/

/-- A header byte, bit by bit. -/
theorem packHeader_bits (addr : Word) (apndp rnw : Bool) :
    (packHeader addr apndp rnw).getLsbD 0 = true ∧ (packHeader addr apndp rnw).getLsbD 1 = apndp ∧
      (packHeader addr apndp rnw).getLsbD 2 = rnw ∧ (packHeader addr apndp rnw).getLsbD 3 = addr.getLsbD 2 ∧
      (packHeader addr apndp rnw).getLsbD 4 = addr.getLsbD 3 ∧
      (packHeader addr apndp rnw).getLsbD 5 = headerParity addr apndp rnw ∧
      (packHeader addr apndp rnw).getLsbD 6 = false ∧ (packHeader addr apndp rnw).getLsbD 7 = true := by
  unfold packHeader
  generalize headerParity addr apndp rnw = parity
  generalize addr.getLsbD 2 = a2
  generalize addr.getLsbD 3 = a3
  revert parity a2 a3 apndp rnw
  decide

/-- Settles O5: the byte is the packed header, whose bit 5 is the parity of R95. -/
theorem packHeaderResult : Obligations.PackHeaderResult := fun _ addr apndp rnw =>
  ⟨packHeader addr apndp rnw, rfl, packHeader_bits addr apndp rnw⟩

/-! ### Even parity (R160, R161) -/

/-- How many of the low `n` bits are ones. -/
def onesBelow (w : Word) (n : Nat) : Nat := (List.range n).countP w.getLsbD

/-- The positions where exactly one of two predicates holds are as many, but for an even number, as those of both. -/
theorem countP_xor_mod_two {α : Type} (f g : α → Bool) (l : List α) :
    (l.countP fun a => f a ^^ g a) % 2 = (l.countP f + l.countP g) % 2 := by
  induction l with
  | nil => rfl
  | cons a l ih =>
    simp only [List.countP_cons]
    cases f a <;> cases g a <;> simp <;> omega

theorem onesBelow_xor (w v : Word) (n : Nat) :
    onesBelow (w ^^^ v) n % 2 = (onesBelow w n + onesBelow v n) % 2 := by
  have hbits : (w ^^^ v).getLsbD = fun i => w.getLsbD i ^^ v.getLsbD i := funext fun _ => BitVec.getLsbD_xor
  rw [onesBelow, hbits]
  exact countP_xor_mod_two ..

theorem onesBelow_add (w : Word) (m n : Nat) : onesBelow w (m + n) = onesBelow w m + onesBelow (w >>> m) n := by
  have hbits : (w >>> m).getLsbD = fun i => w.getLsbD (m + i) := funext fun _ => BitVec.getLsbD_ushiftRight ..
  rw [onesBelow, List.range_add, List.countP_append, List.countP_map, onesBelow, onesBelow, hbits]
  rfl

/-- One fold of R160: the low `n` bits take up the parity of the `n` bits above them. -/
theorem onesBelow_fold (w : Word) (n : Nat) : onesBelow (w ^^^ (w >>> n)) n % 2 = onesBelow w (n + n) % 2 := by
  rw [onesBelow_xor, onesBelow_add]

theorem getLsbD_zero_eq_onesBelow (w : Word) : w.getLsbD 0 = decide (onesBelow w 1 % 2 = 1) := by
  have hone : onesBelow w 1 = (w.getLsbD 0).toNat := by
    simp only [onesBelow, List.range_one, List.countP_singleton]
    cases w.getLsbD 0 <;> rfl
  rw [hone]
  cases w.getLsbD 0 <;> rfl

/-- The five folds leave in bit 0 whether the word has an odd number of ones (R161). -/
theorem evenParity_eq_onesBelow (w : Word) : evenParity w = decide (onesBelow w 32 % 2 = 1) := by
  simp only [evenParity, getLsbD_zero_eq_onesBelow, onesBelow_fold, Nat.reduceAdd]

/-- Settles O6: the folds count the ones of the word modulo 2. -/
theorem evenParityResult : Obligations.EvenParityResult := by
  intro s w
  have hword : (BitVec.ofBool (evenParity w)).setWidth 32
      = if ((List.range 32).countP fun i => w.getLsbD i) % 2 = 1 then (1 : Word) else 0 := by
    rw [evenParity_eq_onesBelow]
    change (BitVec.ofBool (decide (onesBelow w 32 % 2 = 1))).setWidth 32 = if onesBelow w 32 % 2 = 1 then 1 else 0
    by_cases h : onesBelow w 32 % 2 = 1 <;> simp [h]
  rw [← hword]
  rfl

theorem evenParity_xor (w v : Word) : evenParity (w ^^^ v) = (evenParity w ^^ evenParity v) := by
  rw [evenParity_eq_onesBelow, evenParity_eq_onesBelow, evenParity_eq_onesBelow, onesBelow_xor]
  rcases Nat.mod_two_eq_zero_or_one (onesBelow w 32) with hw | hw <;>
    rcases Nat.mod_two_eq_zero_or_one (onesBelow v 32) with hv | hv <;> simp [Nat.add_mod, hw, hv]

theorem evenParity_twoPow (i : Fin 32) : evenParity (1 <<< i.val) = true := by
  revert i; decide

/-- Settles O7: a flip is the exclusive or with a word of one bit, whose parity is 1. -/
theorem evenParityLinear : Obligations.EvenParityLinear := by
  refine ⟨evenParity_xor, fun w i hi => ?_⟩
  rw [evenParity_xor, evenParity_twoPow ⟨i, hi⟩, Bool.xor_true]

/-! ### Every legal command ends (R180) -/

/-- The command ends in a next state. -/
def Ends (o : Host.Outcome State Fault Refusal) : Prop := ∃ t, o = .next t

theorem ends_next (t : State) : Ends (.next t) := ⟨t, rfl⟩

theorem ends_requirePins {s : State} {k : Host.Outcome State Fault Refusal} (hp : s.pinsReady = true) (hk : Ends k) :
    Ends (requirePins s k) := by
  rwa [requirePins, if_pos hp]

theorem ends_requireLegal {legal : Bool} {r : Refusal} {k : Host.Outcome State Fault Refusal} (hl : legal = true)
    (hk : Ends k) : Ends (requireLegal legal r k) := by
  rwa [requireLegal, if_pos hl]

/-- A legal level is one the record encodes (R27, U12). -/
theorem levelOf_of_levelLegal {c : Params} {level : BitVec 2} (h : levelLegal c level = true) :
    ∃ l, levelOf c level = some l := by
  unfold levelOf
  obtain h | h | h := of_decide_eq_true h <;> split_ifs <;> exact ⟨_, rfl⟩

/-- Settles O55: the guards let a legal command run, and the runs of all layers end. -/
theorem everyLegalCommandEnds : Obligations.EveryLegalCommandEnds := by
  intro i s hw hp
  change Ends (exec i s)
  cases i
  case writeBits v n => exact ends_requirePins (hp rfl) (ends_requireLegal hw (ends_next _))
  case readBits n => exact ends_requirePins (hp rfl) (ends_requireLegal hw (ends_next _))
  case writeTurnaround => exact ends_requirePins (hp rfl) (ends_next _)
  case readTurnaround => exact ends_requirePins (hp rfl) (ends_next _)
  case bringupSeq => exact ends_requirePins (hp rfl) (ends_next _)
  case dpWrite addr apndp data => exact ends_requirePins (hp rfl) (finishDone_next _)
  case dpRead addr apndp => exact ends_requirePins (hp rfl) (finishWord_next _)
  case reqDpWrite a3 a2 data => exact ends_requirePins (hp rfl) (finishDone_next _)
  case reqDpRead a3 a2 => exact ends_requirePins (hp rfl) (finishWord_next _)
  case reqApWrite a3 a2 data => exact ends_requirePins (hp rfl) (finishDone_next _)
  case reqApRead a3 a2 => exact ends_requirePins (hp rfl) (finishWord_next _)
  case apSelect port addr => exact ends_requirePins (hp rfl) (ends_requireLegal hw (finishDone_next _))
  case apWrite port addr data => exact ends_requirePins (hp rfl) (ends_requireLegal hw (finishDone_next _))
  case apRead port addr => exact ends_requirePins (hp rfl) (ends_requireLegal hw (finishWord_next _))
  case memStore address word => exact ends_requirePins (hp rfl) (finishDone_next _)
  case memLoad address => exact ends_requirePins (hp rfl) (finishWord_next _)
  case memStoreN address count buffer => exact ends_requirePins (hp rfl) (ends_requireLegal hw (finishDone_next _))
  case memLoadN address count => exact ends_requirePins (hp rfl) (finishBuffer_next _ _)
  case linkInit clk dio v =>
    obtain ⟨l, hl⟩ := levelOf_of_levelLegal hw
    rw [exec, execLinkInit, hl]
    exact finishDone_next _
  case setVerbosity level =>
    obtain ⟨l, hl⟩ := levelOf_of_levelLegal hw
    rw [exec, execSetVerbosity, hl]
    exact ends_next _
  case evenParity w => exact ends_next _
  case packHeader addr apndp rnw => exact ends_next _

end Sys2Proof.Machine

/-! PROOFS. The statements of 42_ap_layer.md: the fields of the SELECT value, AP_SELECT on a hit, on a miss and on a SELECT
write that fails, AP_WRITE and AP_READ answered OK, and the cache after each of the three. -/

namespace Sys2Proof.Machine

/-! ### The SELECT value (R200) -/

/-- The SELECT value holds the port at bit 24 and the bank of the address, its bits 7:4, at bit 4. -/
theorem selectValue_eq_fields (port : BitVec 8) (addr : Word) :
    selectValue port addr = port.setWidth 32 <<< 24 ||| (addr.extractLsb' 4 4).setWidth 32 <<< 4 := by
  have hbank : addr &&& 0x000000F0 = (addr.extractLsb' 4 4).setWidth 32 <<< 4 := by
    ext i hi
    interval_cases i <;> simp
  rw [← hbank]
  rfl

/-- Its fields, bit by bit (R200). -/
theorem selectValue_fields (port : BitVec 8) (addr : Word) :
    (selectValue port addr).extractLsb' 24 8 = port ∧ (selectValue port addr).extractLsb' 8 16 = 0 ∧
    (selectValue port addr).extractLsb' 4 4 = addr.extractLsb' 4 4 ∧ (selectValue port addr).extractLsb' 0 4 = 0 := by
  rw [selectValue_eq_fields]
  refine ⟨?_, ?_, ?_, ?_⟩ <;> ext i hi <;> interval_cases i <;> simp

/-- Settles O8: the address enters the SELECT value through its bank alone, and the bank can be read back from it. -/
theorem selectValueFields : Obligations.SelectValueFields := by
  intro port addr addr'
  obtain ⟨hport, hmiddle, hbank, hlow⟩ := selectValue_fields port addr
  obtain ⟨-, -, hbank', -⟩ := selectValue_fields port addr'
  refine ⟨hport, hmiddle, hbank, hlow, fun h => ?_, fun h => ?_⟩
  · rw [← hbank, h, hbank']
  · rw [selectValue_eq_fields, selectValue_eq_fields, h]

/-! ### The three commands past their guards (R202, R302) -/

section
variable {s : State} {port : BitVec 8} (hp : s.pinsReady = true) (hport : port.toNat < Config.params.numPorts)
include hp hport

theorem exec_apSelect_eq (addr : Word) :
    exec (.apSelect port addr) s = finishDone (selectAccessPort Config.params port addr s) :=
  (if_pos hp).trans (if_pos ((portLegal_iff port).mpr hport))

theorem exec_apWrite_eq (addr data : Word) :
    exec (.apWrite port addr data) s = finishDone (apWrite Config.params port addr data s) :=
  (if_pos hp).trans (if_pos ((portLegal_iff port).mpr hport))

theorem exec_apRead_eq (addr : Word) :
    exec (.apRead port addr) s = finishWord (apRead Config.params port addr s) :=
  (if_pos hp).trans (if_pos ((portLegal_iff port).mpr hport))

end

/-! ### Answered OK (R201, R203, R204) -/

/-- What attempts that end with the selection `sel` cached leave in `t`, the result presented: all of `TransactionEnd`
but the old cache. -/
structure SelectionEnd (s t : State) (sel : Word) (used pulses : Nat) (errs : List Diag) (bits : List (Option Bool)) :
    Prop where
  framed : t.Framed
  link : SameLink s t
  loadBuffer : t.loadBuffer = s.loadBuffer
  selcache : t.selcache = sel
  target : t.targetScript = s.targetScript.drop used
  pulses : pulsesSince s t = pulses
  errors : t.errorEvents = s.errorEvents ++ errs
  seen : s.dioMode = .outPP → bitsSince s t = bits

/-- Complete attempts that cached `sel`, then a presentation: with the old cache put back, `t` is as after a transaction. -/
theorem Done.selected {s u t : State} {sel : Word} {used pulses : Nat} {errs : List Diag} {bits : List (Option Bool)}
    (hd : Done s u used pulses errs bits) (hs : u.selcache = sel)
    (ht : t = { u with result := t.result, freeCount := t.freeCount }) :
    SelectionEnd s t sel used pulses errs bits := by
  have hend : TransactionEnd s (Machine.setSelcache s.selcache t) used pulses errs bits :=
    (hd.setSelcache s.selcache).presented rfl (by rw [ht]; rfl)
  exact
    { framed := hend.framed
      link := { clkPin := hend.same.clkPin, dioPin := hend.same.dioPin, verbosity := hend.same.verbosity
                linkReady := hend.same.linkReady, pinsReady := hend.same.pinsReady, hostScript := hend.same.hostScript }
      loadBuffer := hend.same.loadBuffer
      selcache := by rw [ht]; exact hs
      target := hend.target
      pulses := hend.pulses
      errors := hend.errors
      seen := hend.seen }

/-- Settles O26: a hit only presents its result; a miss is the SELECT write, then the new cache. -/
theorem apSelectCaches : Obligations.ApSelectCaches := by
  intro s port addr k hp hport hk
  rw [Completes, Completes, exec_apSelect_eq hp hport]
  refine ⟨fun hhit => ?_, fun hmiss h => ?_⟩
  · rw [select_hit _ _ _ hhit]
    exact ⟨presentDone s, rfl, ⟨rfl, rfl⟩, (Wire.refl s).sameButWire rfl rfl, ⟨rfl, rfl, rfl⟩, ⟨rfl, rfl, rfl⟩⟩
  · obtain ⟨u, hu, hs, hd⟩ := select_succeeds port addr k hk s hmiss h
    have hend := hd.selected (t := presentDone u) hs rfl
    rw [hu]
    exact ⟨presentDone u, rfl, ⟨rfl, rfl⟩, hend.framed, hend.link, hend.loadBuffer, hend.selcache,
      by simpa using hend.errors, hend.target, hend.pulses, hend.seen⟩

/-- Settles O28: the law of an `apWrite` answered OK, its result presented. -/
theorem apWriteSucceeds : Obligations.ApWriteSucceeds := by
  intro s port addr data j k hp hport hj hk h
  obtain ⟨u, hu, hs, hd⟩ := apWrite_succeeds port addr data j k hj hk s h
  have hend := hd.selected (t := presentDone u) hs rfl
  exact ⟨presentDone u, by rw [exec_apWrite_eq hp hport, hu]; rfl, ⟨rfl, rfl⟩, hend.framed, hend.link, hend.loadBuffer,
    hend.selcache, by simpa using hend.errors, hend.pulses, hend.seen⟩

/-- Settles O29: the law of an `apRead` answered OK, its word presented. -/
theorem apReadSucceeds : Obligations.ApReadSucceeds := by
  intro s port addr w j k hp hport hj hk h
  obtain ⟨u, hu, hs, hd⟩ := apRead_succeeds port addr j k hj hk w s h
  have hend := hd.selected (t := presentWord w u) hs rfl
  exact ⟨presentWord w u, by rw [exec_apRead_eq hp hport, hu]; rfl, ⟨rfl, rfl⟩, rfl, hend.framed, hend.link,
    hend.loadBuffer, hend.selcache, by simpa using hend.errors, hend.pulses, hend.seen⟩

/-! ### A SELECT write that fails (R201, R203, R204) -/

/-- AP_SELECT on a miss fails as its SELECT write does. -/
theorem failsAfter_apSelect {s : State} {port : BitVec 8} {addr : Word} {ls : List Bool} {e : ErrorKind} {n : Nat}
    (hp : s.pinsReady = true) (hport : port.toNat < Config.params.numPorts) (hmiss : selectValue port addr ≠ s.selcache)
    (ha : AckFailure ls e n) (h : s.shows ls) :
    ∃ f : Failure, f.kind = e ∧ FailsAfter (.apSelect port addr) s f ls.length n (failedWrite 0xB1 n) := by
  obtain ⟨f, u, hu, rfl, hs, hd⟩ := select_fails port addr ls e n ha s hmiss h
  exact ⟨f, rfl, u, by rw [exec_apSelect_eq hp hport, hu]; rfl, hs, hd⟩

/-- An AP_SELECT that failed: its guards passed, and `t` presents the failure of the selector. -/
theorem apSelect_failed {s t : State} {port : BitVec 8} {addr : Word} (he : exec (.apSelect port addr) s = .next t)
    (hfail : t.result.ok = false) :
    s.pinsReady = true ∧ port.toNat < Config.params.numPorts ∧
      ∃ e u, selectAccessPort Config.params port addr s = (.error e, u) ∧ t = presentFail e u := by
  obtain ⟨hp, h⟩ := requirePins_next he
  obtain ⟨hl, h⟩ := requireLegal_next h
  refine ⟨hp, (portLegal_iff port).mp hl, ?_⟩
  rcases hsel : selectAccessPort Config.params port addr s with ⟨e | _, u⟩ <;> rw [hsel] at h <;> cases h
  · exact ⟨e, u, rfl, rfl⟩
  · cases hfail

/-- A selector that failed pre-empts the access: both accesses end as AP_SELECT did. -/
theorem failed_select_preempts (s t : State) (port : BitVec 8) (addr data : Word)
    (he : exec (.apSelect port addr) s = .next t) (hfail : t.result.ok = false) :
    exec (.apWrite port addr data) s = .next t ∧ exec (.apRead port addr) s = .next t := by
  obtain ⟨hp, hport, e, u, hsel, rfl⟩ := apSelect_failed he hfail
  rw [exec_apWrite_eq hp hport, exec_apRead_eq hp hport, apWrite, apRead, hsel]
  exact ⟨rfl, rfl⟩

/-- Settles O27: the failed write of the selector, and that no access follows it. -/
theorem failedSelectKeepsCache : Obligations.FailedSelectKeepsCache := by
  refine ⟨fun s port addr ls e n hp hport hmiss ha h => ?_, failed_select_preempts⟩
  obtain ⟨f, rfl, hfails⟩ := failsAfter_apSelect hp hport hmiss ha h
  obtain ⟨t, he, hf, hend⟩ := hfails.completes
  exact ⟨t, he, hf, hend.same, hend.framed, hend.pulses, hend.seen⟩

/-! ### The cache after an access-port command (R201, R205, R311) -/

theorem finishDone_ok {r : Run Unit} {t : State} (h : finishDone r = .next t) (hok : t.result.ok = true) :
    r.1 = .ok () := by
  obtain ⟨_ | _, u⟩ := r <;> cases h
  · cases hok
  · rfl

theorem finishWord_ok {r : Run Word} {t : State} (h : finishWord r = .next t) (hok : t.result.ok = true) :
    ∃ w, r.1 = .ok w := by
  obtain ⟨_ | w, u⟩ := r <;> cases h
  · cases hok
  · exact ⟨w, rfl⟩

/-- The cache after the selector, in the shape of the laws of the accesses. -/
theorem select_selcache_cases (port : BitVec 8) (addr : Word) (s : State) :
    ((selectAccessPort Config.params port addr s).2.selcache = s.selcache ∨
      (selectAccessPort Config.params port addr s).2.selcache = selectValue port addr) ∧
    ((selectAccessPort Config.params port addr s).1 = .ok () →
      (selectAccessPort Config.params port addr s).2.selcache = selectValue port addr) := by
  rw [select_selcache]
  cases (selectAccessPort Config.params port addr s).1 with
  | error e => exact ⟨.inl rfl, fun h => by cases h⟩
  | ok _ => exact ⟨.inr rfl, fun _ => rfl⟩

/-- Settles O30: each command presents what its run did to the cache, and success only of a run that succeeded. -/
theorem selectionAfterAccess : Obligations.SelectionAfterAccess := by
  rintro i port addr s t (rfl | ⟨data, rfl⟩ | rfl) he <;>
    obtain ⟨-, h⟩ := requireLegal_next (requirePins_next he).2
  · obtain ⟨hcases, hsel⟩ := select_selcache_cases port addr s
    rw [finishDone_selcache h]
    exact ⟨hcases, fun hok => hsel (finishDone_ok h hok)⟩
  · obtain ⟨hcases, hsel⟩ := apWrite_selcache port addr data s
    rw [finishDone_selcache h]
    exact ⟨hcases, fun hok => hsel (finishDone_ok h hok)⟩
  · obtain ⟨hcases, hsel⟩ := apRead_selcache port addr s
    rw [finishWord_selcache h]
    exact ⟨hcases, fun hok => (finishWord_ok h hok).elim hsel⟩

end Sys2Proof.Machine

/-! PROOFS. The statements of 43_memory_and_init.md: the memory commands answered OK, aborted at a word and pre-empted
at TAR, INITIALIZE answered in every way, and SET_VERBOSITY. -/

namespace Sys2Proof.Machine

/-! ### The memory commands past their guards (R90, R230 to R233, R302) -/

theorem exec_memStore {s : State} (hp : s.pinsReady = true) (address word : Word) :
    exec (.memStore address word) s = finishDone (memoryStore Config.params address [word] s) := if_pos hp

theorem exec_memStoreN {s : State} (hp : s.pinsReady = true) (address : Word) {count : Word} {buffer : List Word}
    (hb : buffer.length = count.toNat) :
    exec (.memStoreN address count buffer) s = finishDone (memoryStore Config.params address buffer s) :=
  (if_pos hp).trans (if_pos (decide_eq_true hb))

/-! ### What a transfer leaves (R65, R232 to R234) -/

/-- What a memory command leaves in `t`, its result presented: port 0, bank 0 selected and the link as it was. Nothing
is said of the load buffer. -/
structure TransferEnd (s t : State) (pulses : Nat) (errs : List Diag) (bits : List (Option Bool)) : Prop where
  framed : t.Framed
  link : SameLink s t
  selcache : t.selcache = 0
  errors : t.errorEvents = s.errorEvents ++ errs
  pulses : pulsesSince s t = pulses
  seen : s.dioMode = .outPP → bitsSince s t = bits

/-- Complete attempts that ended with port 0, bank 0 selected, then a presentation, in the load buffer or not. -/
theorem Done.transferred {s u t : State} {used pulses : Nat} {errs : List Diag} {bits : List (Option Bool)}
    (hd : Done s u used pulses errs bits) (hs : u.selcache = 0)
    (ht : t = { u with result := t.result, freeCount := t.freeCount, loadBuffer := t.loadBuffer }) :
    TransferEnd s t pulses errs bits := by
  rw [ht]
  exact
    { framed := hd.framed
      link := { clkPin := hd.wire.clkPin, dioPin := hd.wire.dioPin, verbosity := hd.wire.verbosity
                linkReady := hd.wire.linkReady, pinsReady := hd.wire.pinsReady, hostScript := hd.wire.hostScript }
      selcache := hs
      errors := hd.wire.errors
      pulses := hd.wire.pulsesSince
      seen := hd.seen }

/-! ### Answered OK (R230 to R233) -/

/-- Settles O32: the law of a store answered OK, its result presented. -/
theorem storeSucceeds : Obligations.StoreSucceeds := by
  intro s address count j k words hp hcount hj hk hwords h
  obtain ⟨u, n, hu, hs, hd⟩ := memoryStore_succeeds address j k words hj hk hwords s h
  have hend := hd.transferred (t := presentDone u) hs rfl
  exact ⟨presentDone u, by rw [exec_memStoreN hp address (by simpa using hcount), hu]; rfl, ⟨rfl, rfl⟩, hend.framed,
    hend.link, hd.wire.loadBuffer, hend.selcache, by simpa using hend.errors, hend.pulses, hend.seen⟩

/-- Settles O33: the law of a load answered OK, its words presented in the host's buffer. -/
theorem loadSucceeds : Obligations.LoadSucceeds := by
  intro s address count j k words hp hcount hj hk hwords h
  obtain ⟨u, n, hu, hs, hd⟩ := memoryLoad_succeeds address j k words hj hk hwords s h
  have hend := hd.transferred (t := presentDone (fillBuffer (words.map Prod.snd) u)) hs rfl
  exact ⟨presentDone (fillBuffer (words.map Prod.snd) u), by rw [exec_memLoadN hp, ← hcount, hu]; rfl, ⟨rfl, rfl⟩, rfl,
    hend.framed, hend.link, hend.selcache, by simpa using hend.errors, hend.pulses, hend.seen⟩

/-- Settles O34: the laws of a store and of a load for a list of one word. -/
theorem singleWordSucceeds : Obligations.SingleWordSucceeds := by
  intro s address word j k l hp hj hk hl
  have hword : ∀ p ∈ [(l, word)], p.1 < Config.params.waitAttempts := by simpa using hl
  refine ⟨fun h => ?_, fun h => ?_⟩
  · obtain ⟨u, n, hu, hs, hd⟩ := memoryStore_succeeds address j k [(l, word)] hj hk hword s (by simpa using h)
    have hend := hd.transferred (t := presentDone u) hs rfl
    exact ⟨presentDone u, by rw [exec_memStore hp]; exact congrArg finishDone hu, ⟨rfl, rfl⟩, hend.framed, hend.link,
      ⟨hend.link.hostScript, hd.wire.loadBuffer⟩, hend.selcache, by simpa using hend.errors, by simpa using hend.pulses⟩
  · obtain ⟨u, n, hu, hs, hd⟩ := memoryLoad_succeeds address j k [(l, word)] hj hk hword s (by simpa using h)
    have hend := hd.transferred (t := presentWord word u) hs rfl
    have hload : memoryLoad Config.params address 1 s = (.ok [word], u) := hu
    exact ⟨presentWord word u, by rw [exec_memLoad hp, hload]; rfl, ⟨rfl, rfl⟩, rfl, hend.framed, hend.link,
      ⟨hend.link.hostScript, hd.wire.loadBuffer⟩, hend.selcache, by simpa using hend.errors, by simpa using hend.pulses⟩

/-! ### Aborted at a word (R234) -/

/-- Settles O35: the law of a store whose word after `done` fails. -/
theorem storeAborts : Obligations.StoreAborts := by
  intro s address count j k done word later ls e n hp hcount hj hk hdone ha h
  have hbuffer : (done.map Prod.snd ++ word :: later).length = count.toNat := by
    rw [List.length_append, List.length_map, List.length_cons]
    omega
  obtain ⟨f, u, m, hu, -, hs, hd⟩ := memoryStore_aborts address j k done word later hj hk hdone ls e n ha s h
  have hend := hd.transferred (t := presentFail e u) hs rfl
  exact ⟨presentFail e u, by rw [exec_memStoreN hp address hbuffer, hu]; rfl, ⟨rfl, rfl⟩, hend.framed, hend.link,
    hd.wire.loadBuffer, hend.selcache, hend.pulses, hend.seen⟩

theorem length_spoilBuffer (n : Nat) (s : State) : (spoilBuffer n s).loadBuffer.length = n := by simp

/-- Settles O36: the law of a load whose word after `done` fails. -/
theorem loadAborts : Obligations.LoadAborts := by
  intro s address count j k done ls e n hp hcount hj hk hdone ha h
  obtain ⟨later, hlater⟩ : ∃ later, count.toNat = done.length + (later + 1) := ⟨count.toNat - done.length - 1, by omega⟩
  obtain ⟨f, u, m, hu, -, hs, hd⟩ := memoryLoad_aborts address j k done later hj hk hdone ls e n ha s h
  rw [← hlater] at hu
  have hend := hd.transferred (t := presentFail e (spoilBuffer count.toNat u)) hs rfl
  exact ⟨presentFail e (spoilBuffer count.toNat u), by rw [exec_memLoadN hp, hu]; rfl, ⟨rfl, rfl⟩, hend.framed,
    hend.link, length_spoilBuffer _ u, hend.selcache, hend.pulses, hend.seen⟩

/-! ### Pre-empted at TAR (R234) -/

/-- An AP_WRITE of TAR that failed: the pins are configured, and `t` presents the failure of the write that begins every
transfer. -/
theorem tar_write_failed {s t : State} {address : Word} (he : exec (.apWrite 0 0x04 address) s = .next t)
    (hfail : t.result.ok = false) :
    s.pinsReady = true ∧ ∃ e u,
      apWrite Config.params Config.params.defaultPort Config.params.apTar address s = (.error e, u) ∧
        t = presentFail e u := by
  obtain ⟨hp, h⟩ := requirePins_next he
  have h : finishDone (apWrite Config.params Config.params.defaultPort Config.params.apTar address s) = .next t :=
    (requireLegal_next h).2
  refine ⟨hp, ?_⟩
  rcases hw : apWrite Config.params Config.params.defaultPort Config.params.apTar address s with ⟨e | _, u⟩ <;>
    rw [hw] at h <;> cases h
  · exact ⟨e, u, rfl, rfl⟩
  · cases hfail

section
variable {s u : State} {address : Word} {e : ErrorKind}
  (htar : apWrite Config.params Config.params.defaultPort Config.params.apTar address s = (.error e, u))
include htar

theorem memoryStore_of_tar_failed (buffer : List Word) :
    memoryStore Config.params address buffer s = (.error e, u) := by
  rw [memoryStore, htar]
  rfl

theorem memoryLoad_of_tar_failed (n : Nat) : memoryLoad Config.params address n s = (.error e, u) := by
  rw [memoryLoad, htar]
  rfl

end

/-- Settles O37: every transfer begins with the write of TAR, and presents its failure as AP_WRITE does. -/
theorem failedTarPreempts : Obligations.FailedTarPreempts := by
  intro s t address he hfail
  obtain ⟨hp, e, u, htar, rfl⟩ := tar_write_failed he hfail
  refine ⟨fun word => ?_, ?_, fun count buffer hb => ?_, fun count => ?_⟩
  · rw [exec_memStore hp, memoryStore_of_tar_failed htar]
    rfl
  · rw [exec_memLoad hp, memoryLoad_of_tar_failed htar]
    rfl
  · rw [exec_memStoreN hp address hb, memoryStore_of_tar_failed htar]
    rfl
  · rw [Completes, exec_memLoadN hp, memoryLoad_of_tar_failed htar]
    exact ⟨presentFail e (spoilBuffer count.toNat u), rfl, rfl, rfl, length_spoilBuffer _ u, rfl⟩

/-! ### INITIALIZE past its level check, and after its first two steps (R220 to R222) -/

/-- The state in which step 3 of INITIALIZE begins. -/
def linkStarted (clk dio : PinId) (l : Level) (s : State) : State :=
  linkStep2 Config.params (linkStep1 Config.params clk dio l s)

theorem exec_linkInit_eq {v : BitVec 2} {l : Level} (hl : levelOf Config.params v = some l) (clk dio : PinId)
    (s : State) : exec (.linkInit clk dio v) s = finishDone (bringUp Config.params (linkStarted clk dio l s)) := by
  rw [exec, execLinkInit, hl]
  rfl

theorem begun_linkStarted (s : State) (clk dio : PinId) (l : Level) : Begun s (linkStarted clk dio l s) clk dio l :=
  begun s clk dio l

section
variable {s s2 u t : State} {clk dio : PinId} {l : Level}

/-- The first two steps use up no answer. -/
theorem Begun.shows (hb : Begun s s2 clk dio l) {ls : List Bool} (h : s.shows ls) : s2.shows ls := by
  rw [State.shows, hb.targetScript]
  exact h

/-- What INITIALIZE leaves in `t`, however it ends: the configuration loaded, the host's side as it was, the line
framed, the diagnostics and the pulses after those of the bring-up sequence. -/
structure InitializeEnd (s t : State) (clk dio : PinId) (l : Level) (pulses : Nat) (errs : List Diag) : Prop where
  clkPin : t.clkPin = clk
  dioPin : t.dioPin = dio
  verbosity : t.verbosity = l
  pinsReady : t.pinsReady = true
  framed : t.Framed
  host : SameHost s t
  errors : t.errorEvents = s.errorEvents ++ errs
  pulses : pulsesSince s t = bringupPulses + pulses

/-- Complete attempts after the first two steps, then the ready flag or not, and the presentation. -/
theorem Begun.initialized (hb : Begun s s2 clk dio l) {used pulses : Nat} {errs : List Diag}
    {bits : List (Option Bool)} (hd : Done s2 u used pulses errs bits)
    (ht : t = { u with result := t.result, freeCount := t.freeCount, linkReady := t.linkReady }) :
    InitializeEnd s t clk dio l pulses errs := by
  rw [ht]
  exact
    { clkPin := hd.wire.clkPin.trans hb.clkPin
      dioPin := hd.wire.dioPin.trans hb.dioPin
      verbosity := hd.wire.verbosity.trans hb.verbosity
      pinsReady := hd.wire.pinsReady.trans hb.pinsReady
      framed := hd.framed
      host := ⟨hd.wire.hostScript.trans hb.hostScript, hd.wire.loadBuffer.trans hb.loadBuffer⟩
      errors := hd.wire.errors.trans (congrArg (· ++ errs) hb.errors)
      pulses := (hb.pulsesSince hd.wire :) }

end

/-! ### The steps in a row (R220) -/

section
variable {s t u v w x : State} {idcode : Word}

theorem bringUp_of_step4 (h3 : linkStep3 Config.params s = (.ok idcode, t))
    (h4 : linkStep4 Config.params idcode t = (.ok (), u)) :
    bringUp Config.params s = andThen (lastSteps u) fun _ s7 => (.ok (), markReady s7) := by
  rw [bringUp_eq, h3]
  simp only [andThen]
  rw [h4]

theorem lastSteps_of_step5 (h5 : linkStep5 Config.params u = (.ok (), v)) :
    lastSteps u = andThen (linkStep6 Config.params v) fun _ s6 => linkStep7 Config.params s6 := by
  rw [lastSteps, h5]
  rfl

theorem lastSteps_of_step6 (h5 : linkStep5 Config.params u = (.ok (), v))
    (h6 : linkStep6 Config.params v = (.ok (), w)) : lastSteps u = linkStep7 Config.params w := by
  rw [lastSteps_of_step5 h5, h6]
  rfl

/-- With step 7 passed too the link is ready (R228). -/
theorem bringUp_of_step7 (h3 : linkStep3 Config.params s = (.ok idcode, t))
    (h4 : linkStep4 Config.params idcode t = (.ok (), u)) (h5 : linkStep5 Config.params u = (.ok (), v))
    (h6 : linkStep6 Config.params v = (.ok (), w)) (h7 : linkStep7 Config.params w = (.ok (), x)) :
    bringUp Config.params s = (.ok (), markReady x) := by
  rw [bringUp_of_step4 h3 h4, lastSteps_of_step6 h5 h6, h7]
  rfl

end

/-! ### The selections of steps 6 and 7 are misses (R201, R226, R227) -/

section
variable {s : State}

theorem selectBits_miss {sel : Word} {j : Nat} (h : sel ≠ s.selcache) :
    selectBits s sel j = writeTransaction 0xB1 sel j := if_neg h

theorem idr_miss (hs : s.selcache = 0xFFFFFFFF) :
    selectValue Config.params.defaultPort Config.params.apIdr ≠ s.selcache := by
  rw [hs, selectValue_idr]
  decide

theorem csw_miss (hs : s.selcache = 0xF0) : selectValue Config.params.defaultPort Config.params.apCsw ≠ s.selcache := by
  rw [hs, selectValue_csw]
  decide

end

/-! ### What an observer sees of steps 3 to 7 (R223 to R227) -/

section
variable {s : State} {rest : List Bool}

/-- A DP read answered OK, and the answers after it. -/
theorem dpRead_then (addr : Word) (apndp : Bool) {k : Nat} {w : Word} (hk : k < Config.params.waitAttempts)
    (h : s.shows (readAnswer k w ++ rest)) :
    ∃ t m, dpRead Config.params addr apndp s = (.ok w, t) ∧ t.selcache = s.selcache ∧ t.shows rest ∧
      Done s t m (transactionPulses k) [] (readTransaction (packHeader addr apndp true) k) := by
  obtain ⟨t, ht, hd⟩ := dpRead_succeeds addr apndp k hk w s ((shows_append _ _ _).mp h).1
  have hs := dpRead_selcache addr apndp s
  rw [ht] at hs
  exact ⟨t, _, ht, hs, h.after hd.wire.target (by simp), hd⟩

/-- A DP write answered OK, and the answers after it. -/
theorem dpWrite_then (addr : Word) (apndp : Bool) (data : Word) {k : Nat} (hk : k < Config.params.waitAttempts)
    (h : s.shows (writeAnswer k ++ rest)) :
    ∃ t m, dpWrite Config.params addr apndp data s = (.ok (), t) ∧ t.selcache = s.selcache ∧ t.shows rest ∧
      Done s t m (transactionPulses k) [] (writeTransaction (packHeader addr apndp false) data k) := by
  obtain ⟨t, ht, hd⟩ := dpWrite_succeeds addr apndp data k hk s ((shows_append _ _ _).mp h).1
  have hs := dpWrite_selcache addr apndp data s
  rw [ht] at hs
  exact ⟨t, _, ht, hs, h.after hd.wire.target (by simp), hd⟩

/-- Steps 3 and 4: the IDCODE read, header 0xA5. -/
theorem steps34_seen {idcode : Word} {k : Nat} (hk : k < Config.params.waitAttempts)
    (hi : idcodeRecognized Config.params idcode = true) (h : s.shows (readAnswer k idcode ++ rest)) :
    ∃ t u m, linkStep3 Config.params s = (.ok idcode, t) ∧ linkStep4 Config.params idcode t = (.ok (), u) ∧
      u.selcache = s.selcache ∧ u.shows rest ∧
      Done s u m (transactionPulses k) [] (readTransaction 0xA5 k) := by
  obtain ⟨t, m, ht, hs, hrest, hd⟩ := dpRead_then Config.params.dpIdcode false hk h
  exact ⟨t, log .normal (.foundArmProcessor idcode) t, m, by rw [linkStep3, ht], by rw [linkStep4, if_pos hi], hs,
    hrest, hd.milestone _⟩

/-- Step 5 whose first poll shows both acknowledge bits: the CTRLSTAT write, header 0xA9, and one read, header 0x8D. -/
theorem step5_seen {ctrl : Word} {k j : Nat} (hk : k < Config.params.waitAttempts) (hj : j < Config.params.waitAttempts)
    (hc : powerUpAcknowledged Config.params ctrl = true) (h : s.shows (writeAnswer k ++ (readAnswer j ctrl ++ rest))) :
    ∃ t m p, linkStep5 Config.params s = (.ok (), t) ∧ t.selcache = s.selcache ∧ t.shows rest ∧
      Done s t m p [] (writeTransaction 0xA9 0x50000000 k ++ readTransaction 0x8D j) := by
  obtain ⟨t, _, ht, hs, hrest, hd⟩ := dpWrite_then Config.params.dpCtrlstat false Config.params.pwrupReq hk h
  obtain ⟨u, _, hu, hs1, hrest, hd1⟩ := dpRead_then Config.params.dpCtrlstat false hj hrest
  refine ⟨u, _, _, ?_, hs1.trans hs, hrest, hd.trans hd1⟩
  rw [linkStep5, ht]
  simp only [andThen]
  rw [params_powerupPolls, pollLoop, hu]
  simp only [andThen, if_pos hc]

/-- Step 6 on an invalid cache: the SELECT write of 0xF0, header 0xB1, and the IDR read, header 0x9F. -/
theorem step6_seen {idr : Word} {k j : Nat} (hk : k < Config.params.waitAttempts) (hj : j < Config.params.waitAttempts)
    (hi : isMemoryPort Config.params idr = true) (hs : s.selcache = 0xFFFFFFFF)
    (h : s.shows (writeAnswer k ++ (readAnswer j idr ++ rest))) :
    ∃ t m p, linkStep6 Config.params s = (.ok (), t) ∧ t.selcache = 0xF0 ∧ t.shows rest ∧
      Done s t m p [] (writeTransaction 0xB1 0xF0 k ++ readTransaction 0x9F j) := by
  have hmiss := idr_miss hs
  rw [← List.append_assoc, ← selectLevels_miss s _ k hmiss] at h
  obtain ⟨t, ht, hsel, hd⟩ := apRead_succeeds _ _ k j hk hj idr s ((shows_append _ _ _).mp h).1
  have hrest := h.after hd.wire.target (by simp)
  rw [selectBits_miss hmiss, selectValue_idr] at hd
  refine ⟨t, _, _, ?_, hsel.trans selectValue_idr, hrest, hd⟩
  rw [linkStep6, ht]
  simp only [andThen, if_pos hi]

/-- Step 7 after step 6: the SELECT write of 0, header 0xB1, and the CSW write, header 0xA3. -/
theorem step7_seen {k j : Nat} (hk : k < Config.params.waitAttempts) (hj : j < Config.params.waitAttempts)
    (hs : s.selcache = 0xF0) (h : s.shows (writeAnswer k ++ writeAnswer j)) :
    ∃ t m, linkStep7 Config.params s = (.ok (), t) ∧ t.selcache = 0 ∧ t.milestones = s.milestones ∧
      Done s t m (transactionPulses k + transactionPulses j) []
        (writeTransaction 0xB1 0 k ++ writeTransaction 0xA3 Config.params.cswDefault j) := by
  have hmiss := csw_miss hs
  rw [← selectLevels_miss s _ k hmiss] at h
  obtain ⟨t, ht, hsel, hd⟩ := apWrite_succeeds _ _ Config.params.cswDefault k j hk hj s h
  have hm := apWrite_milestones Config.params.defaultPort Config.params.apCsw Config.params.cswDefault s
  rw [ht] at hm
  rw [selectBits_miss hmiss, selectPulses_miss _ _ _ hmiss, selectValue_csw] at hd
  exact ⟨t, _, ht, hsel.trans selectValue_csw, hm, hd⟩

end

/-! ### INITIALIZE succeeds (R220, R224, R228) -/

/-- Settles O38: steps 3 to 6 pass, the last two writes are those of step 7, and the ready flag is set. -/
theorem initializeSucceeds : Obligations.InitializeSucceeds := by
  intro s clk dio v l ls n idcode j k hl hpass hj hk h
  have hb := begun_linkStarted s clk dio l
  have hshows := hb.shows h
  rw [List.append_assoc] at hshows
  obtain ⟨t3, t4, t5, t6, h3, h4, h5, h6, ⟨bits, hd⟩, hs, hm, hrest⟩ := typeChecked_pass hpass _ hb.selcache _ hshows
  obtain ⟨t7, m, h7, hsel, hm7, hd7⟩ := step7_seen hj hk hs hrest
  have hrun := bringUp_of_step7 h3 h4 h5 h6 h7
  have hend := hb.initialized (t := presentDone (markReady t7)) (hd.trans hd7) rfl
  refine ⟨presentDone (markReady t7), by rw [exec_linkInit_eq hl, hrun]; rfl, ⟨rfl, rfl⟩, rfl, hend.pinsReady, hsel,
    hend.clkPin, hend.dioPin, hend.verbosity, hend.framed, hend.host, by simpa using hend.errors, ?_, ?_⟩
  · rw [hb.milestones, hb.verbosity] at hm
    exact hm7.trans hm
  · rw [hend.pulses]
    omega

/-! ### The bits of an INITIALIZE (R221 to R229) -/

/-- Before the sequence an observer sees at most the rise of step 1, if the clock was low (R221, D14). -/
theorem bitsSince_linkStep1 (clk dio : PinId) (l : Level) (s t : State)
    (h : (linkStep1 Config.params clk dio l s).gpio <+: t.gpio) :
    bitsSince s t = (if s.clkLevel then [] else [if s.dioMode = .outPP then some s.dioLatch else none])
      ++ bitsSince (linkStep1 Config.params clk dio l s) t := by
  obtain ⟨es, he⟩ := h
  have hs : actionsSince s t = [.setLevel .clk clk true, .setMode .clk clk .outPP, .setLevel .dio dio true,
      .setMode .dio dio .outPP] ++ es := by
    rw [actionsSince, ← he, linkStep1_gpio, List.append_assoc, List.drop_left]
  have ht : actionsSince (linkStep1 Config.params clk dio l s) t = es := by rw [actionsSince, ← he, List.drop_left]
  rw [bitsSince, bitsSince, hs, ht]
  cases s.clkLevel <;> cases s.dioMode <;> simp [clockedBits]

/-- What an observer sees of the two steps and of complete attempts after them. -/
theorem Done.seen_since_linkStarted {s u : State} {clk dio : PinId} {l : Level} {used pulses : Nat} {errs : List Diag}
    {bits : List (Option Bool)} (hd : Done (linkStarted clk dio l s) u used pulses errs bits) :
    bitsSince s u = (if s.clkLevel then [] else [if s.dioMode = .outPP then some s.dioLatch else none])
      ++ ((bringupBits Config.params).map some ++ bits) := by
  have hw := wire_linkStep2 (linkStep1 Config.params clk dio l s)
  have hseen : bitsSince (linkStep2 Config.params (linkStep1 Config.params clk dio l s)) u = bits :=
    hd.seen (linkStep2_dioMode _)
  rw [bitsSince_linkStep1 clk dio l s u (hw.gpio.trans hd.wire.gpio), hw.bitsSince_trans hd.wire,
    bitsSince_linkStep2 _ rfl, hseen]

/-- Settles O39: the rise of step 1, the sequence, and the transactions of steps 3 to 7 in order. -/
theorem initializeTransactions : Obligations.InitializeTransactions := by
  intro s clk dio v l idcode ctrl idr k1 k2 k3 k4 k5 k6 k7 hl hi hc hp hk h
  simp only [List.forall_mem_cons] at hk
  obtain ⟨hk1, hk2, hk3, hk4, hk5, hk6, hk7, -⟩ := hk
  have hb := begun_linkStarted s clk dio l
  have hshows := hb.shows h
  simp only [List.append_assoc] at hshows
  obtain ⟨t3, t4, _, h3, h4, hs4, hshows, hd4⟩ := steps34_seen hk1 hi hshows
  obtain ⟨t5, _, _, h5, hs5, hshows, hd5⟩ := step5_seen hk2 hk3 hc hshows
  obtain ⟨t6, _, _, h6, hs6, hshows, hd6⟩ := step6_seen hk4 hk5 hp (hs5.trans (hs4.trans hb.selcache)) hshows
  obtain ⟨t7, _, h7, -, -, hd7⟩ := step7_seen hk6 hk7 hs6 hshows
  have hrun := bringUp_of_step7 h3 h4 h5 h6 h7
  have hseen := (((hd4.trans hd5).trans hd6).trans hd7).seen_since_linkStarted
  refine ⟨presentDone (markReady t7), by rw [exec_linkInit_eq hl, hrun]; rfl, ⟨rfl, rfl⟩, ?_⟩
  change bitsSince s t7 = _
  rw [hseen]
  simp only [List.append_assoc]

/-! ### INITIALIZE fails (R223 to R227) -/

/-- The run `r` from `s` fails with `e` after complete attempts of `pulses` pulses, `sel` cached. -/
def FailsWith {α : Type} (s : State) (r : Run α) (e : ErrorKind) (sel : Word) (pulses : Nat) : Prop :=
  ∃ u used errs bits, r = (.error e, u) ∧ u.selcache = sel ∧ Done s u used pulses errs bits

section
variable {α β : Type} {s t : State} {e : ErrorKind} {sel : Word} {n m : Nat}

/-- A failure ends every operation that called the failing one (R262). -/
theorem FailsWith.andThen {r : Run α} (h : FailsWith s r e sel n) (f : α → State → Run β) :
    FailsWith s (Machine.andThen r f) e sel n := by
  obtain ⟨u, used, errs, bits, rfl, hs, hd⟩ := h
  exact ⟨u, used, errs, bits, rfl, hs, hd⟩

theorem Done.then_fails {used : Nat} {bits : List (Option Bool)} {r : Run α} (hd : Done s t used m [] bits)
    (h : FailsWith t r e sel n) : FailsWith s r e sel (m + n) := by
  obtain ⟨u, used', errs, bits', hr, hs, hd'⟩ := h
  exact ⟨u, _, errs, _, hr, hs, hd.trans hd'⟩

theorem Stage.then_fails {used : Nat} {r : Run α} (h : Stage s t used m) (hf : FailsWith t r e sel n) :
    FailsWith s r e sel (m + n) := by
  obtain ⟨bits, hd⟩ := h.done
  exact hd.then_fails hf

/-- A check that fails after complete attempts. -/
theorem Stage.raise_fails {used : Nat} (h : Stage s t used m) (f : Failure) :
    FailsWith s (raise f t : Run α) f.kind t.selcache m := by
  obtain ⟨bits, hd⟩ := h.done
  exact ⟨_, _, _, _, rfl, rfl, hd.raised (.failure f)⟩

end

section
variable {s : State} {ls : List Bool} {e : ErrorKind} {n : Nat}

theorem failsWith_dpWrite (addr : Word) (apndp : Bool) (data : Word) (ha : AckFailure ls e n) (h : s.shows ls) :
    FailsWith s (dpWrite Config.params addr apndp data s) e s.selcache n := by
  obtain ⟨f, u, hu, -, hd⟩ := dpWrite_fails addr apndp data ls e n ha s h
  have hs := dpWrite_selcache addr apndp data s
  rw [hu] at hs
  exact ⟨u, _, _, _, hu, hs, hd⟩

/-- A DP read that fails keeps the cache (R163). -/
theorem dpRead_fails_selcache (addr : Word) (apndp : Bool) (ha : ReadFailure ls e n) (h : s.shows ls) :
    ∃ f u used bits, dpRead Config.params addr apndp s = (.error e, u) ∧ f.kind = e ∧ u.selcache = s.selcache ∧
      Done s u used n [⟨.error, .failure f⟩] bits := by
  obtain ⟨f, u, hu, hf, hd⟩ := dpRead_fails addr apndp ls e n ha s h
  have hs := dpRead_selcache addr apndp s
  rw [hu] at hs
  exact ⟨f, u, _, _, hu, hf, hs, hd⟩

theorem failsWith_dpRead (addr : Word) (apndp : Bool) (ha : ReadFailure ls e n) (h : s.shows ls) :
    FailsWith s (dpRead Config.params addr apndp s) e s.selcache n := by
  obtain ⟨f, u, used, bits, hu, -, hs, hd⟩ := dpRead_fails_selcache addr apndp ha h
  exact ⟨u, used, _, bits, hu, hs, hd⟩

/-- Step 3 fails with the re-labelled kind, the transaction's diagnostic before its own (R223). -/
theorem linkStep3_fails (ha : ReadFailure ls e n) (h : s.shows ls) :
    ∃ f u used bits, linkStep3 Config.params s = (.error .noDeviceDetected, u) ∧ f.kind = e ∧ u.selcache = s.selcache ∧
      Done s u used n [⟨.error, .failure f⟩, ⟨.error, .failure (.noDeviceDetected e)⟩] bits := by
  obtain ⟨f, u, _, _, hu, hf, hs, hd⟩ := dpRead_fails_selcache Config.params.dpIdcode false ha h
  exact ⟨f, log .error (.failure (.noDeviceDetected e)) u, _, _, by rw [linkStep3, hu]; rfl, hf, hs, hd.raised _⟩

/-! Step 5 (R225) -/

theorem step5_write_fails (ha : AckFailure ls e n) (h : s.shows ls) :
    FailsWith s (linkStep5 Config.params s) e s.selcache n :=
  (failsWith_dpWrite _ _ _ ha h).andThen _

variable {k : Nat} {polls : List (Nat × Word)} (hk : k < Config.params.waitAttempts) (hpolls : Pending polls)
include hk hpolls

theorem step5_read_fails (hlen : polls.length < Config.params.powerupPolls) (ha : ReadFailure ls e n)
    (h : s.shows (writeAnswer k ++ (readLevels polls ++ ls))) :
    FailsWith s (linkStep5 Config.params s) e s.selcache (transactionPulses k + totalPulses polls + n) := by
  obtain ⟨t, ht, hst, hs, -, h1⟩ := powerUp_write k hk s _ h
  obtain ⟨r, hr⟩ : ∃ r, Config.params.powerupPolls = polls.length + (r + 1) :=
    ⟨Config.params.powerupPolls - polls.length - 1, by omega⟩
  obtain ⟨u, last, hu, hst1, hs1, -, h2⟩ := pollLoop_run polls hpolls (r + 1) 0 s t _ _ hst ls h1
  have hrun : linkStep5 Config.params s = pollLoop Config.params (r + 1) last u := by
    rw [linkStep5, ht, hr, ← hu]
    rfl
  rw [hrun, ← hs, ← hs1]
  exact hst1.then_fails ((failsWith_dpRead _ _ ha h2).andThen _)

theorem step5_times_out (hlen : polls.length = Config.params.powerupPolls)
    (h : s.shows (writeAnswer k ++ readLevels polls)) :
    FailsWith s (linkStep5 Config.params s) .powerUpTimeout s.selcache (transactionPulses k + totalPulses polls) := by
  obtain ⟨t, ht, hst, hs, -, h1⟩ := powerUp_write k hk s _ h
  obtain ⟨u, last, hu, hst1, hs1, -, -⟩ := pollLoop_run polls hpolls 0 0 s t _ _ hst [] (by simpa using h1)
  have hrun : linkStep5 Config.params s = raise (.powerUpTimeout last) u := by
    rw [linkStep5, ht, ← hlen]
    exact hu
  rw [hrun, ← hs, ← hs1]
  exact hst1.raise_fails (.powerUpTimeout last)

end

section
variable {s : State} {ls : List Bool} {e : ErrorKind} {n k : Nat}

/-! Step 6 on an invalid cache (R226) -/

theorem step6_select_fails (hs : s.selcache = 0xFFFFFFFF) (ha : AckFailure ls e n) (h : s.shows ls) :
    FailsWith s (linkStep6 Config.params s) e 0xFFFFFFFF n := by
  obtain ⟨f, u, hu, -, hsel, hd⟩ := apRead_select_fails _ _ ls e n ha s (idr_miss hs) h
  exact FailsWith.andThen ⟨u, _, _, _, hu, hsel.trans hs, hd⟩ _

theorem step6_read_fails (hs : s.selcache = 0xFFFFFFFF) (hk : k < Config.params.waitAttempts) (ha : ReadFailure ls e n)
    (h : s.shows (writeAnswer k ++ ls)) : FailsWith s (linkStep6 Config.params s) e 0xF0 (transactionPulses k + n) := by
  rw [← selectLevels_miss s _ k (idr_miss hs)] at h
  obtain ⟨f, u, hu, -, hsel, hd⟩ := apRead_fails _ _ k hk ls e n ha s h
  rw [selectPulses_miss _ _ _ (idr_miss hs)] at hd
  exact FailsWith.andThen ⟨u, _, _, _, hu, hsel.trans selectValue_idr, hd⟩ _

theorem step6_type_fails {j : Nat} {w : Word} (hs : s.selcache = 0xFFFFFFFF) (hk : k < Config.params.waitAttempts)
    (hj : j < Config.params.waitAttempts) (hw : isMemoryPort Config.params w = false)
    (h : s.shows (writeAnswer k ++ readAnswer j w)) :
    FailsWith s (linkStep6 Config.params s) .unexpectedAccessPortType 0xF0
      (transactionPulses k + transactionPulses j) := by
  obtain ⟨t, ht, hsel, -, hst, -⟩ := idr_read k j hk hj w s hs [] (by simpa using h)
  have hrun : linkStep6 Config.params s = raise (.unexpectedAccessPortType w) t := by
    rw [linkStep6, ht]
    simp [andThen, hw]
  rw [hrun, ← hsel]
  exact hst.raise_fails (.unexpectedAccessPortType w)

/-! Step 7 after step 6 (R227) -/

theorem step7_select_fails (hs : s.selcache = 0xF0) (ha : AckFailure ls e n) (h : s.shows ls) :
    FailsWith s (linkStep7 Config.params s) e 0xF0 n := by
  obtain ⟨f, u, hu, -, hsel, hd⟩ := apWrite_select_fails _ _ Config.params.cswDefault ls e n ha s (csw_miss hs) h
  exact ⟨u, _, _, _, hu, hsel.trans hs, hd⟩

theorem step7_write_fails (hs : s.selcache = 0xF0) (hk : k < Config.params.waitAttempts) (ha : AckFailure ls e n)
    (h : s.shows (writeAnswer k ++ ls)) : FailsWith s (linkStep7 Config.params s) e 0 (transactionPulses k + n) := by
  rw [← selectLevels_miss s _ k (csw_miss hs)] at h
  obtain ⟨f, u, hu, -, hsel, hd⟩ := apWrite_fails _ _ Config.params.cswDefault k hk ls e n ha s h
  rw [selectPulses_miss _ _ _ (csw_miss hs)] at hd
  exact ⟨u, _, _, _, hu, hsel.trans selectValue_csw, hd⟩

end

/-! A step that fails after the ones before it passed -/

section
variable {s : State} {ls rest : List Bool} {n m : Nat} {idcode sel : Word} {e : ErrorKind} (h : s.shows (ls ++ rest))
include h

theorem bringUp_fails_at_step5 (hpass : IdcodePassed ls n idcode)
    (hf : ∀ t : State, t.selcache = s.selcache → t.shows rest → FailsWith t (linkStep5 Config.params t) e sel m) :
    FailsWith s (bringUp Config.params s) e sel (n + m) := by
  obtain ⟨t3, t4, h3, h4, hst, hs, -⟩ := steps34_pass hpass s ((shows_append _ _ _).mp h).1
  rw [bringUp_of_step4 h3 h4]
  exact hst.then_fails (((hf t4 hs (hst.shows h)).andThen _).andThen _)

theorem bringUp_fails_at_step6 (hpass : PoweredUp ls n idcode)
    (hf : ∀ t : State, t.selcache = s.selcache → t.shows rest → FailsWith t (linkStep6 Config.params t) e sel m) :
    FailsWith s (bringUp Config.params s) e sel (n + m) := by
  obtain ⟨t3, t4, t5, h3, h4, h5, hst, hs, -, hrest⟩ := poweredUp_pass hpass s rest h
  rw [bringUp_of_step4 h3 h4, lastSteps_of_step5 h5]
  exact hst.then_fails (((hf t5 hs hrest).andThen _).andThen _)

theorem bringUp_fails_at_step7 (hpass : TypeChecked ls n idcode) (hs : s.selcache = 0xFFFFFFFF)
    (hf : ∀ t : State, t.selcache = 0xF0 → t.shows rest → FailsWith t (linkStep7 Config.params t) e sel m) :
    FailsWith s (bringUp Config.params s) e sel (n + m) := by
  obtain ⟨t3, t4, t5, t6, h3, h4, h5, h6, hst, hs6, -, hrest⟩ := typeChecked_pass hpass s hs rest h
  rw [bringUp_of_step4 h3 h4, lastSteps_of_step6 h5 h6]
  exact hst.then_fails ((hf t6 hs6 hrest).andThen _)

end

theorem bringUp_fails_at_step4 {s : State} {k : Nat} {w : Word} (hk : k < Config.params.waitAttempts)
    (hw : idcodeRecognized Config.params w = false) (h : s.shows (readAnswer k w)) :
    FailsWith s (bringUp Config.params s) .unrecognizedPart s.selcache (transactionPulses k) := by
  obtain ⟨t, _, ht, hs, -, hd⟩ := dpRead_then Config.params.dpIdcode false hk (rest := []) (by rwa [List.append_nil])
  have hrun : bringUp Config.params s = (.error .unrecognizedPart, log .error (.failure (.unrecognizedPart w)) t) := by
    rw [bringUp_eq, linkStep3, ht]
    simp [andThen, linkStep4, hw, raise, Failure.kind]
  exact ⟨_, _, _, _, hrun, hs, hd.raised _⟩

/-- Steps 3 to 7 fail with the kind of the first failing one, the cache as the steps before it left it. -/
theorem bringUp_fails {s : State} {ls : List Bool} {e : ErrorKind} {sel : Word} {n : Nat} (hf : InitFailure ls e sel n)
    (hs : s.selcache = 0xFFFFFFFF) (h : s.shows ls) : FailsWith s (bringUp Config.params s) e sel n := by
  cases hf with
  | idcodeRead ls e n ha =>
    obtain ⟨f, u, used, bits, hu, -, hsel, hd⟩ := linkStep3_fails ha h
    exact FailsWith.andThen ⟨u, _, _, _, hu, hsel.trans hs, hd⟩ _
  | idcodeValue k w hk hw =>
    rw [← hs]
    exact bringUp_fails_at_step4 hk hw h
  | powerUpWrite ls n idcode ls' e m hpass ha =>
    exact bringUp_fails_at_step5 h hpass fun t ht h' => ht.trans hs ▸ step5_write_fails ha h'
  | pollRead ls n idcode k polls ls' e m hpass hk hpolls hlen ha =>
    rw [List.append_assoc, List.append_assoc] at h
    rw [Nat.add_assoc n, Nat.add_assoc n]
    exact bringUp_fails_at_step5 h hpass fun t ht h' => ht.trans hs ▸ step5_read_fails hk hpolls hlen ha h'
  | powerUpTimeout ls n idcode k polls hpass hk hpolls hlen =>
    rw [List.append_assoc] at h
    rw [Nat.add_assoc]
    exact bringUp_fails_at_step5 h hpass fun t ht h' => ht.trans hs ▸ step5_times_out hk hpolls hlen h'
  | idrSelect ls n idcode ls' e m hpass ha =>
    exact bringUp_fails_at_step6 h hpass fun t ht h' => step6_select_fails (ht.trans hs) ha h'
  | idrRead ls n idcode k ls' e m hpass hk ha =>
    rw [List.append_assoc] at h
    rw [Nat.add_assoc]
    exact bringUp_fails_at_step6 h hpass fun t ht h' => step6_read_fails (ht.trans hs) hk ha h'
  | idrValue ls n idcode k j w hpass hk hj hw =>
    rw [List.append_assoc] at h
    rw [Nat.add_assoc]
    exact bringUp_fails_at_step6 h hpass fun t ht h' => step6_type_fails (ht.trans hs) hk hj hw h'
  | cswSelect ls n idcode ls' e m hpass ha =>
    exact bringUp_fails_at_step7 h hpass hs fun t ht h' => step7_select_fails ht ha h'
  | cswWrite ls n idcode k ls' e m hpass hk ha =>
    rw [List.append_assoc] at h
    rw [Nat.add_assoc]
    exact bringUp_fails_at_step7 h hpass hs fun t ht h' => step7_write_fails ht hk ha h'

/-- Settles O40: the first failing step's failure presented, the ready flag still clear. -/
theorem initializeFails : Obligations.InitializeFails := by
  intro s clk dio v l ls e sel n hl hf h
  have hb := begun_linkStarted s clk dio l
  obtain ⟨u, used, errs, bits, hu, hs, hd⟩ := bringUp_fails hf hb.selcache (hb.shows h)
  have hend := hb.initialized (t := presentFail e u) hd rfl
  exact ⟨presentFail e u, by rw [exec_linkInit_eq hl, hu]; rfl, ⟨rfl, rfl⟩, hd.wire.linkReady.trans hb.linkReady,
    hend.pinsReady, hs, hend.clkPin, hend.dioPin, hend.verbosity, hend.framed, hend.host, hend.pulses⟩

/-- Settles O41: the failing read reports its failure, and step 3 its own after it. -/
theorem noDeviceRelabels : Obligations.NoDeviceRelabels := by
  intro s clk dio v l ls e n hl ha h
  have hb := begun_linkStarted s clk dio l
  obtain ⟨f, u, used, bits, hu, hf, -, hd⟩ := linkStep3_fails ha (hb.shows h)
  have hend := hb.initialized (t := presentFail .noDeviceDetected u) hd rfl
  exact ⟨presentFail .noDeviceDetected u, by rw [exec_linkInit_eq hl, bringUp_eq, hu]; rfl, ⟨rfl, rfl⟩, f, hf,
    hend.errors⟩

/-! ### The ready flag, and where INITIALIZE starts (R221, R228) -/

/-- Settles O42: step 1 clears the flag, no attempt writes it, and only the end of step 7 sets it. -/
theorem readyIffInitialized : Obligations.ReadyIffInitialized := by
  intro s t clk dio v he
  obtain ⟨l, s2, u, m, p, ds, b, -, hb, hd, hend⟩ := exec_linkInit clk dio v s t he
  obtain ⟨rfl, -⟩ | ⟨f, rfl, -⟩ := hend
  · rfl
  · exact hd.wire.linkReady.trans hb.linkReady

/-- Settles O43: step 1 overwrites every field in which the two states differ. -/
theorem initializeForgetsLink : Obligations.InitializeForgetsLink := by
  intro s clk dio v c d lv sel lr pr cl la m
  cases hl : levelOf Config.params v with
  | none => simp only [exec, execLinkInit, hl]
  | some l =>
    rw [exec_linkInit_eq hl, exec_linkInit_eq hl]
    rfl

/-! ### SET_VERBOSITY (R236) -/

/-- Every level below 3 is the code of the level it encodes (R27). -/
theorem exists_levelOf {level : BitVec 2} (h : level.toNat ≤ 2) :
    ∃ l, levelOf Config.params level = some l ∧ l.code Config.params = level := by
  have hcases : level = 0 ∨ level = 1 ∨ level = 2 := by bv_omega
  obtain rfl | rfl | rfl := hcases
  · exact ⟨.error, rfl, rfl⟩
  · exact ⟨.normal, rfl, rfl⟩
  · exact ⟨.trace, rfl, rfl⟩

/-- Settles O45: the level is encoded, and the command writes the threshold and presents its result. -/
theorem setVerbositySets : Obligations.SetVerbositySets := by
  intro s level hlevel
  obtain ⟨l, hl, hcode⟩ := exists_levelOf hlevel
  exact ⟨presentDone (putVerbosity l s), by rw [exec, execSetVerbosity, hl], ⟨rfl, rfl⟩, hcode, rfl, rfl, rfl, rfl, rfl,
    ⟨rfl, rfl, rfl⟩, ⟨rfl, rfl, rfl⟩, ⟨rfl, rfl⟩⟩

end Sys2Proof.Machine

/-! PROOFS. The statements of 60_exceptions.md: the kinds a command can end with, and the error-level diagnostics that
go with them. Both are read off one law, `exec_reports`. -/

namespace Sys2Proof.Machine

/-- Of all commands only INITIALIZE ends with NoDeviceDetected (R261). -/
theorem ne_noDeviceDetected_of_mayEndWith {i : Instr} (hi : ∀ clk dio v, i ≠ .linkInit clk dio v) {e : ErrorKind}
    (h : mayEndWith i e = true) : e ≠ .noDeviceDetected := by
  rintro rfl
  cases i
  case linkInit clk dio v => exact hi clk dio v rfl
  all_goals cases h

/-- The code 1 is NoDeviceDetected's alone (R260). -/
theorem ErrorKind.code_ne_noDeviceDetected {e : ErrorKind} (h : e ≠ .noDeviceDetected) :
    e.code ≠ ErrorKind.noDeviceDetected.code := by
  intro hcode
  cases e
  case noDeviceDetected => exact h rfl
  all_goals cases hcode

/-- `errs` are the error-level diagnostics of a command `i` that ended in `t`: none with success, the failure's own
with a kind of `i`, and before it the failed read's own where step 3 of INITIALIZE re-labels (R223, R262, R263). -/
inductive Reports (i : Instr) (t : State) : List Diag → Prop where
  | success (h : t.Succeeded) : Reports i t []
  | failure (f : Failure) (hk : mayEndWith i f.kind = true) (hn : f.kind ≠ .noDeviceDetected)
      (h : t.FailedWith f.kind) : Reports i t [⟨.error, .failure f⟩]
  | relabelled (g f : Failure) (hk : mayEndWith i f.kind = true) (hn : f.kind = .noDeviceDetected)
      (h : t.FailedWith f.kind) : Reports i t [⟨.error, .failure g⟩, ⟨.error, .failure f⟩]

/-- `t` has the error-level diagnostics of `s`, then those a command `i` that ended in `t` reports. -/
def ReportsSince (i : Instr) (s t : State) : Prop :=
  ∃ errs, t.errorEvents = s.errorEvents ++ errs ∧ Reports i t errs

section
variable {i : Instr} {s t u : State}

theorem Plain.reports (h : Plain i s t) : ReportsSince i s t :=
  ⟨[], by rw [h.errors, List.append_nil], .success h.succeeded⟩

/-- Complete attempts and the presentation of what they reported, of a command other than INITIALIZE. -/
theorem Closing.reports {used pulses : Nat} {errs : List Diag} {bits : List (Option Bool)}
    (hi : ∀ clk dio v, i ≠ .linkInit clk dio v) (hd : Done s u used pulses errs bits)
    (hc : Closing u t errs fun e => mayEndWith i e = true) : ReportsSince i s t := by
  refine ⟨errs, ?_, ?_⟩
  · rw [hc.same]
    exact hd.wire.errors
  · obtain ⟨rfl, hs⟩ | ⟨f, rfl, hk, hf⟩ := hc.ended
    · exact .success hs
    · exact .failure f hk (ne_noDeviceDetected_of_mayEndWith hi hk) hf

theorem apSelect_reports {port : BitVec 8} {addr : Word} (he : exec (.apSelect port addr) s = .next t) :
    ReportsSince (.apSelect port addr) s t := by
  obtain ⟨-, -, ⟨-, rfl⟩ | ⟨u, m, p, ds, b, hd, hc, -⟩⟩ := exec_apSelect port addr s t he
  · exact ⟨[], (List.append_nil _).symm, .success ⟨rfl, rfl⟩⟩
  · exact hc.reports (by rintro clk dio v ⟨⟩) hd

/-- The first two steps of INITIALIZE report nothing, the later ones one failure at most, to which step 3 adds its
re-labelling (R221 to R228). -/
theorem linkInit_reports {clk dio : PinId} {v : BitVec 2} (he : exec (.linkInit clk dio v) s = .next t) :
    ReportsSince (.linkInit clk dio v) s t := by
  obtain ⟨l, s2, u, m, p, ds, b, -, hb, hd, hend⟩ := exec_linkInit clk dio v s t he
  have herr : u.errorEvents = s.errorEvents ++ ds := by rw [hd.wire.errors, hb.errors]
  obtain ⟨rfl, rfl, -⟩ | ⟨f, rfl, ⟨hn, rfl⟩ | ⟨g, hn, rfl⟩⟩ := hend
  · exact ⟨_, herr, .success ⟨rfl, rfl⟩⟩
  · exact ⟨_, herr, .failure f rfl hn ⟨rfl, rfl⟩⟩
  · exact ⟨_, herr, .relabelled g f rfl hn ⟨rfl, rfl⟩⟩

/-- Every command. -/
theorem exec_reports (he : exec i s = .next t) : ReportsSince i s t := by
  cases hm : makesTransaction i with
  | true =>
    by_cases hi : ∃ clk dio v, i = .linkInit clk dio v
    · obtain ⟨clk, dio, v, rfl⟩ := hi
      exact linkInit_reports he
    · have hi : ∀ clk dio v, i ≠ .linkInit clk dio v := fun clk dio v h => hi ⟨clk, dio, v, h⟩
      obtain ⟨u, m, p, ds, b, hd, hc⟩ := (exec_transacted i s t hm hi he).law
      exact hc.reports hi hd
  | false =>
    by_cases ha : ∃ port addr, i = .apSelect port addr
    · obtain ⟨port, addr, rfl⟩ := ha
      exact apSelect_reports he
    · exact (exec_plain i s t hm (fun port addr h => ha ⟨port, addr, h⟩) he).reports

end

/-- Settles O53: each way of reporting has its number of diagnostics, and the last of them is of the kind presented. -/
theorem diagnosticsPerFailure : Obligations.DiagnosticsPerFailure := by
  intro i s t he
  obtain ⟨errs, herr, hr⟩ := exec_reports he
  refine ⟨errs, herr, ?_⟩
  cases hr with
  | success h =>
    obtain ⟨hok, -⟩ := h
    simp [hok]
  | failure f _ hn h =>
    obtain ⟨hok, hcode⟩ := h
    have hne : t.result.err ≠ ErrorKind.noDeviceDetected.code := hcode ▸ ErrorKind.code_ne_noDeviceDetected hn
    exact ⟨by simp [hok, hne], fun _ => ⟨f, rfl, hcode.symm⟩⟩
  | relabelled g f _ hn h =>
    obtain ⟨hok, hcode⟩ := h
    exact ⟨by simp [hok, hcode, hn], fun _ => ⟨f, rfl, hcode.symm⟩⟩

/-- Settles O52: whatever is reported, the kind presented is one of the command's. -/
theorem kindsPerCommand : Obligations.KindsPerCommand := by
  intro i s t he
  obtain ⟨errs, -, hr⟩ := exec_reports he
  cases hr with
  | success h => exact .inl h
  | failure f hk _ h => exact .inr ⟨f.kind, hk, h⟩
  | relabelled _ f hk _ h => exact .inr ⟨f.kind, hk, h⟩

end Sys2Proof.Machine

/-! PROOFS. The statements of 70_reset_and_hazards.md: what is refused before an INITIALIZE has run step 1, the idle core,
and the presentations that name no operation. -/

namespace Sys2Proof.Machine

/-! ### Before INITIALIZE (R302) -/

/-- Every command that needs the pins runs behind the one guard on them, whatever else it checks. -/
theorem exec_eq_requirePins {i : Instr} (hi : needsPins i = true) (s : State) :
    ∃ k, exec i s = requirePins s k := by
  cases i
  case linkInit clk dio verbosity => cases hi
  case setVerbosity level => cases hi
  case evenParity w => cases hi
  case packHeader addr apndp rnw => cases hi
  all_goals exact ⟨_, rfl⟩

theorem requirePins_of_not_pinsReady {s : State} (hs : s.pinsReady = false) (k : Host.Outcome State Fault Refusal) :
    requirePins s k = .refused .beforeInitialize := by
  simp [requirePins, hs]

/-- Settles O57: the guard on the pins comes first in every such command, so it refuses before any operand is looked at. -/
theorem refusedBeforeInitialize : Obligations.RefusedBeforeInitialize := by
  intro i s hi hs
  obtain ⟨k, hk⟩ := exec_eq_requirePins hi s
  rw [hk, requirePins_of_not_pinsReady hs]

/-! ### The idle core and the unknown operation (R93, R301) -/

theorem step_of_nothing_presented {s : State} (hs : s.hostScript = []) : step s = .next s := by
  have hoffer : nextCommand s = .idle := by simp [nextCommand, hs]
  rw [step, hoffer, runOffer]

theorem step_of_decode_error {s : State} {p : Presented} {rest : List Presented} {r : Reject}
    (hs : s.hostScript = p :: rest) (hd : decode p = .error r) : step s = .refused (.unknownOperation r) := by
  have hoffer : nextCommand s = .unknown r := by simp [nextCommand, hs, hd]
  rw [step, hoffer, runOffer]

/-- Each of the seventeen codes of R92 lies in 0x01 to 0x11, so a code outside that range meets the decoder's last arm. -/
theorem decodeCommand_reserved {r : CmdRecord} (h : r.op.toNat = 0 ∨ 0x12 ≤ r.op.toNat) :
    decodeCommand r = .error (.reservedCommand r.op) := by
  unfold decodeCommand
  split
  case h_18 => rfl
  all_goals omega

/-- Settles O59: the port offers nothing, or a presentation the decoder rejects; the reserved codes are rejected. -/
theorem idleAndUnknown : Obligations.IdleAndUnknown := by
  refine ⟨fun _ => step_of_nothing_presented, fun _ _ _ _ => step_of_decode_error, fun r hr => ?_⟩
  have hcode : r.op.toNat = 0 ∨ 0x12 ≤ r.op.toNat := hr.imp_left (congrArg BitVec.toNat)
  exact decodeCommand_reserved hcode

end Sys2Proof.Machine
